-- ==== Sys2Proof/Word.lean ====
section
/-! DEFINITION. The word types of the engine (00_scope.md R9, R12): bytes, RGB565 half words, 32-bit register words.
Addresses while they are computed are unbounded integers (20_memory.md R83), so a memory key is a Nat. -/

namespace Sys2Proof

/-- An 8-bit channel, sample or memory byte (R12). -/
abbrev Byte := BitVec 8

/-- A 16-bit RGB565 word `p565` (R12), or a 16-bit register field. -/
abbrev Half := BitVec 16

/-- A 32-bit register value (R9). -/
abbrev Word := BitVec 32

end Sys2Proof
end

