-- ==== Sys2Proof/Syntax.lean ====
section
/-! DEFINITION. The commands of the engine: one constructor for each of the 45 rows of spec/opcode_table.json
(30_encoding.md R103). A command word carries no operand (R107): every operand is a parameter register. -/

namespace Sys2Proof

/-- The 45 legal commands of 30_encoding.md R103, each named by its mnemonic; the docstring names its rule. -/
inductive Instr where
  /-- NOP (R127). -/
  | nop
  /-- PIX_YUV2RGB (R161). -/
  | pixYuv2rgb
  /-- PIX_PACK565 (R162). -/
  | pixPack565
  /-- PIX_UNPACK565 (R163). -/
  | pixUnpack565
  /-- PIX_CCM (R164). -/
  | pixCcm
  /-- PIX_GAMMA (R165). -/
  | pixGamma
  /-- CCM_APPLY.RGB565 (R167). -/
  | ccmApplyRgb565
  /-- CCM_APPLY.BGR888 (R168). -/
  | ccmApplyBgr888
  /-- CCM_APPLY.ARGB8888 (R169). -/
  | ccmApplyArgb8888
  /-- GAMMA_BUILD (R170). -/
  | gammaBuild
  /-- GAMMA_APPLY.RGB565 (R172). -/
  | gammaApplyRgb565
  /-- GAMMA_APPLY.BGR888 (R173). -/
  | gammaApplyBgr888
  /-- GAMMA_APPLY.ARGB8888 (R174). -/
  | gammaApplyArgb8888
  /-- DEBAYER.RGGB.BGR888 (R187). -/
  | debayerRggbBgr888
  /-- DEBAYER.RGGB.RGB565 (R188). -/
  | debayerRggbRgb565
  /-- DEBAYER.GRBG.BGR888 (R189). -/
  | debayerGrbgBgr888
  /-- DEBAYER.GRBG.RGB565 (R190). -/
  | debayerGrbgRgb565
  /-- DEBAYER.GBRG.BGR888 (R191). -/
  | debayerGbrgBgr888
  /-- DEBAYER.GBRG.RGB565 (R192). -/
  | debayerGbrgRgb565
  /-- DEBAYER.BGGR.BGR888 (R193). -/
  | debayerBggrBgr888
  /-- DEBAYER.BGGR.RGB565 (R194). -/
  | debayerBggrRgb565
  /-- CONVERT.BGR888 (R204). -/
  | convertBgr888
  /-- CONVERT.I420 (R205). -/
  | convertI420
  /-- CONVERT.YV12 (R206). -/
  | convertYv12
  /-- CONVERT.I422 (R207). -/
  | convertI422
  /-- CONVERT.I444 (R208). -/
  | convertI444
  /-- CONVERT.I400 (R209). -/
  | convertI400
  /-- CONVERT.NV12 (R210). -/
  | convertNv12
  /-- CONVERT.NV21 (R211). -/
  | convertNv21
  /-- CONVERT.YUY2 (R212). -/
  | convertYuy2
  /-- CONVERT.UYVY (R213). -/
  | convertUyvy
  /-- PRESENT (R235). -/
  | present
  /-- BEGIN_FRAME (R250). -/
  | beginFrame
  /-- DRAW.RGB565 (R254). -/
  | drawRgb565
  /-- DRAW.BGR888 (R255). -/
  | drawBgr888
  /-- DRAW.I420 (R256). -/
  | drawI420
  /-- DRAW.YV12 (R257). -/
  | drawYv12
  /-- DRAW.I422 (R258). -/
  | drawI422
  /-- DRAW.I444 (R259). -/
  | drawI444
  /-- DRAW.I400 (R260). -/
  | drawI400
  /-- DRAW.NV12 (R261). -/
  | drawNv12
  /-- DRAW.NV21 (R262). -/
  | drawNv21
  /-- DRAW.YUY2 (R263). -/
  | drawYuy2
  /-- DRAW.UYVY (R264). -/
  | drawUyvy
  /-- END_FRAME (R265). -/
  | endFrame
deriving DecidableEq, Repr

end Sys2Proof
end

