-- ==== Sys2Proof/WellFormed.lean ====
section
/-! DEFINITION. Well-formed command words (30_encoding.md R100–R105). A constructor of Instr has no argument, so what can be
ill-formed is a command word cut into its four fields; the checks below are R105's reserved space and R103's selection. -/

namespace Sys2Proof

/-- A command word cut into the four fields of R100, most significant first. -/
structure CmdFields where
  rsvd : Byte
  dfmt : Byte
  sfmt : Byte
  op   : Byte
deriving DecidableEq, Repr

/-- The fields of the word W (R100): OP [7:0], SFMT [15:8], DFMT [23:16], RSVD [31:24]. -/
def CmdFields.ofWord (w : Word) : CmdFields :=
  ⟨w.extractLsb' 24 8, w.extractLsb' 16 8, w.extractLsb' 8 8, w.extractLsb' 0 8⟩

/-- The word `{RSVD, DFMT, SFMT, OP}` (R103). -/
def CmdFields.toWord (f : CmdFields) : Word := f.rsvd ++ f.dfmt ++ f.sfmt ++ f.op

/-- R100: the reserved byte must be 0. -/
def CmdFields.rsvdZero (f : CmdFields) : Bool := f.rsvd == 0x00

/-- R101: the OP values that the table lists. -/
def CmdFields.opListed (f : CmdFields) : Bool :=
  [0x00#8, 0x01#8, 0x02#8, 0x03#8, 0x04#8, 0x05#8, 0x10#8, 0x11#8, 0x12#8, 0x20#8, 0x30#8, 0x40#8, 0x50#8, 0x51#8,
    0x52#8].contains f.op

/-- R101: the OPs that use SFMT and DFMT (CCM_APPLY, GAMMA_APPLY, DEBAYER, CONVERT, DRAW). -/
def CmdFields.usesFormats (f : CmdFields) : Bool := [0x10#8, 0x12#8, 0x20#8, 0x30#8, 0x51#8].contains f.op

/-- R102: the listed pixel format codes. -/
def formatCodes : List Byte :=
  [0x00, 0x01, 0x02, 0x10, 0x11, 0x12, 0x13, 0x14, 0x18, 0x19, 0x1C, 0x1D, 0x20, 0x21, 0x22, 0x23]

/-- R104, third step: SFMT is a listed code where the OP uses it, and 0 where it does not. -/
def CmdFields.sfmtLegal (f : CmdFields) : Bool :=
  if f.usesFormats then formatCodes.contains f.sfmt else f.sfmt == 0x00

/-- R104, fourth step: the same for DFMT. -/
def CmdFields.dfmtLegal (f : CmdFields) : Bool :=
  if f.usesFormats then formatCodes.contains f.dfmt else f.dfmt == 0x00

/-- R103: the (OP, SFMT, DFMT) of each command, as the selection table lists them. -/
def Instr.fields : Instr → CmdFields
  | .nop => ⟨0x00, 0x00, 0x00, 0x00⟩
  | .pixYuv2rgb => ⟨0x00, 0x00, 0x00, 0x01⟩
  | .pixPack565 => ⟨0x00, 0x00, 0x00, 0x02⟩
  | .pixUnpack565 => ⟨0x00, 0x00, 0x00, 0x03⟩
  | .pixCcm => ⟨0x00, 0x00, 0x00, 0x04⟩
  | .pixGamma => ⟨0x00, 0x00, 0x00, 0x05⟩
  | .ccmApplyRgb565 => ⟨0x00, 0x00, 0x00, 0x10⟩
  | .ccmApplyBgr888 => ⟨0x00, 0x01, 0x01, 0x10⟩
  | .ccmApplyArgb8888 => ⟨0x00, 0x02, 0x02, 0x10⟩
  | .gammaBuild => ⟨0x00, 0x00, 0x00, 0x11⟩
  | .gammaApplyRgb565 => ⟨0x00, 0x00, 0x00, 0x12⟩
  | .gammaApplyBgr888 => ⟨0x00, 0x01, 0x01, 0x12⟩
  | .gammaApplyArgb8888 => ⟨0x00, 0x02, 0x02, 0x12⟩
  | .debayerRggbBgr888 => ⟨0x00, 0x01, 0x20, 0x20⟩
  | .debayerRggbRgb565 => ⟨0x00, 0x00, 0x20, 0x20⟩
  | .debayerGrbgBgr888 => ⟨0x00, 0x01, 0x21, 0x20⟩
  | .debayerGrbgRgb565 => ⟨0x00, 0x00, 0x21, 0x20⟩
  | .debayerGbrgBgr888 => ⟨0x00, 0x01, 0x22, 0x20⟩
  | .debayerGbrgRgb565 => ⟨0x00, 0x00, 0x22, 0x20⟩
  | .debayerBggrBgr888 => ⟨0x00, 0x01, 0x23, 0x20⟩
  | .debayerBggrRgb565 => ⟨0x00, 0x00, 0x23, 0x20⟩
  | .convertBgr888 => ⟨0x00, 0x00, 0x01, 0x30⟩
  | .convertI420 => ⟨0x00, 0x00, 0x10, 0x30⟩
  | .convertYv12 => ⟨0x00, 0x00, 0x11, 0x30⟩
  | .convertI422 => ⟨0x00, 0x00, 0x12, 0x30⟩
  | .convertI444 => ⟨0x00, 0x00, 0x13, 0x30⟩
  | .convertI400 => ⟨0x00, 0x00, 0x14, 0x30⟩
  | .convertNv12 => ⟨0x00, 0x00, 0x18, 0x30⟩
  | .convertNv21 => ⟨0x00, 0x00, 0x19, 0x30⟩
  | .convertYuy2 => ⟨0x00, 0x00, 0x1C, 0x30⟩
  | .convertUyvy => ⟨0x00, 0x00, 0x1D, 0x30⟩
  | .present => ⟨0x00, 0x00, 0x00, 0x40⟩
  | .beginFrame => ⟨0x00, 0x00, 0x00, 0x50⟩
  | .drawRgb565 => ⟨0x00, 0x00, 0x00, 0x51⟩
  | .drawBgr888 => ⟨0x00, 0x00, 0x01, 0x51⟩
  | .drawI420 => ⟨0x00, 0x00, 0x10, 0x51⟩
  | .drawYv12 => ⟨0x00, 0x00, 0x11, 0x51⟩
  | .drawI422 => ⟨0x00, 0x00, 0x12, 0x51⟩
  | .drawI444 => ⟨0x00, 0x00, 0x13, 0x51⟩
  | .drawI400 => ⟨0x00, 0x00, 0x14, 0x51⟩
  | .drawNv12 => ⟨0x00, 0x00, 0x18, 0x51⟩
  | .drawNv21 => ⟨0x00, 0x00, 0x19, 0x51⟩
  | .drawYuy2 => ⟨0x00, 0x00, 0x1C, 0x51⟩
  | .drawUyvy => ⟨0x00, 0x00, 0x1D, 0x51⟩
  | .endFrame => ⟨0x00, 0x00, 0x00, 0x52⟩

/-- R103: a format-using OP supports this combination of formats. -/
def CmdFields.supported (f : CmdFields) : Bool :=
  match f.op with
  | 0x10#8 | 0x12#8 => [0x00#8, 0x01#8, 0x02#8].contains f.sfmt && f.dfmt == f.sfmt
  | 0x20#8 => [0x20#8, 0x21#8, 0x22#8, 0x23#8].contains f.sfmt && [0x00#8, 0x01#8].contains f.dfmt
  | 0x30#8 =>
    [0x01#8, 0x10#8, 0x11#8, 0x12#8, 0x13#8, 0x14#8, 0x18#8, 0x19#8, 0x1C#8, 0x1D#8].contains f.sfmt && f.dfmt == 0x00
  | 0x51#8 =>
    [0x00#8, 0x01#8, 0x10#8, 0x11#8, 0x12#8, 0x13#8, 0x14#8, 0x18#8, 0x19#8, 0x1C#8, 0x1D#8].contains f.sfmt
      && f.dfmt == 0x00
  | _ => true

/-- A legal command word (R103, R105): it passes the four steps of R104 and names a supported combination. -/
def CmdFields.wellFormed (f : CmdFields) : Bool :=
  f.rsvdZero && f.opListed && f.sfmtLegal && f.dfmtLegal && f.supported

/-- A command is well-formed when its fields are. -/
def Instr.wellFormed (i : Instr) : Bool := i.fields.wellFormed

end Sys2Proof
end

