-- ==== Sys2Proof/Decode.lean ====
section
/-! DEFINITION. The decoder, total on all 2^32 words (30_encoding.md R104), and after it the encoder. The decoder goes
through named operations and formats; the encoder writes R103's row. -/

namespace Sys2Proof

/-- The operations of R101. -/
inductive Op where
  | nop | pixYuv2rgb | pixPack565 | pixUnpack565 | pixCcm | pixGamma | ccmApply | gammaBuild | gammaApply | debayer
  | convert | present | beginFrame | draw | endFrame
deriving DecidableEq, Repr

/-- The pixel formats of R102. -/
inductive PixelFormat where
  | rgb565 | bgr888 | argb8888 | i420 | yv12 | i422 | i444 | i400 | nv12 | nv21 | yuy2 | uyvy
  | bayerRggb | bayerGrbg | bayerGbrg | bayerBggr
deriving DecidableEq, Repr

/-- Why a word is no legal command: the step of R104 that it fails, or the unsupported format (checks 7 and 8). -/
inductive DecodeError where
  /-- W[31:24] is not 0: check 1. -/
  | reservedBits
  /-- OP is not in R101's table: check 2. -/
  | undefinedOp
  /-- SFMT is no listed code, or is not 0 on an OP that does not use it: check 3. -/
  | illegalSource
  /-- The same for DFMT: check 4. -/
  | illegalDestination
  /-- A listed SFMT that the OP does not support: check 7. -/
  | unsupportedSource (op : Op)
  /-- A listed DFMT that the OP does not support with this SFMT: check 8. -/
  | unsupportedDestination (op : Op)
deriving DecidableEq, Repr

/-- R101: the operation an OP value names. -/
def decodeOp (b : Byte) : Option Op :=
  match b with
  | 0x00#8 => some .nop
  | 0x01#8 => some .pixYuv2rgb
  | 0x02#8 => some .pixPack565
  | 0x03#8 => some .pixUnpack565
  | 0x04#8 => some .pixCcm
  | 0x05#8 => some .pixGamma
  | 0x10#8 => some .ccmApply
  | 0x11#8 => some .gammaBuild
  | 0x12#8 => some .gammaApply
  | 0x20#8 => some .debayer
  | 0x30#8 => some .convert
  | 0x40#8 => some .present
  | 0x50#8 => some .beginFrame
  | 0x51#8 => some .draw
  | 0x52#8 => some .endFrame
  | _ => none

/-- R102: the format a code names. -/
def decodeFormat (b : Byte) : Option PixelFormat :=
  match b with
  | 0x00#8 => some .rgb565
  | 0x01#8 => some .bgr888
  | 0x02#8 => some .argb8888
  | 0x10#8 => some .i420
  | 0x11#8 => some .yv12
  | 0x12#8 => some .i422
  | 0x13#8 => some .i444
  | 0x14#8 => some .i400
  | 0x18#8 => some .nv12
  | 0x19#8 => some .nv21
  | 0x1C#8 => some .yuy2
  | 0x1D#8 => some .uyvy
  | 0x20#8 => some .bayerRggb
  | 0x21#8 => some .bayerGrbg
  | 0x22#8 => some .bayerGbrg
  | 0x23#8 => some .bayerBggr
  | _ => none

/-- The command of an OP that has no image (R101: it uses neither format field). -/
def selectPlain : Op → Option Instr
  | .nop => some .nop
  | .pixYuv2rgb => some .pixYuv2rgb
  | .pixPack565 => some .pixPack565
  | .pixUnpack565 => some .pixUnpack565
  | .pixCcm => some .pixCcm
  | .pixGamma => some .pixGamma
  | .gammaBuild => some .gammaBuild
  | .present => some .present
  | .beginFrame => some .beginFrame
  | .endFrame => some .endFrame
  | .ccmApply | .gammaApply | .debayer | .convert | .draw => none

/-- CCM_APPLY by format (R103); `none` where the RGB family has no such member (check 7). -/
def selectCcm : PixelFormat → Option Instr
  | .rgb565 => some .ccmApplyRgb565
  | .bgr888 => some .ccmApplyBgr888
  | .argb8888 => some .ccmApplyArgb8888
  | _ => none

/-- GAMMA_APPLY by format (R103). -/
def selectGamma : PixelFormat → Option Instr
  | .rgb565 => some .gammaApplyRgb565
  | .bgr888 => some .gammaApplyBgr888
  | .argb8888 => some .gammaApplyArgb8888
  | _ => none

/-- DEBAYER by pattern: the commands for BGR888 and for RGB565 output (R103). -/
def selectDebayer : PixelFormat → Option (Instr × Instr)
  | .bayerRggb => some (.debayerRggbBgr888, .debayerRggbRgb565)
  | .bayerGrbg => some (.debayerGrbgBgr888, .debayerGrbgRgb565)
  | .bayerGbrg => some (.debayerGbrgBgr888, .debayerGbrgRgb565)
  | .bayerBggr => some (.debayerBggrBgr888, .debayerBggrRgb565)
  | _ => none

/-- CONVERT by source format (R103, R214). -/
def selectConvert : PixelFormat → Option Instr
  | .bgr888 => some .convertBgr888
  | .i420 => some .convertI420
  | .yv12 => some .convertYv12
  | .i422 => some .convertI422
  | .i444 => some .convertI444
  | .i400 => some .convertI400
  | .nv12 => some .convertNv12
  | .nv21 => some .convertNv21
  | .yuy2 => some .convertYuy2
  | .uyvy => some .convertUyvy
  | _ => none

/-- DRAW by source format (R103). -/
def selectDraw : PixelFormat → Option Instr
  | .rgb565 => some .drawRgb565
  | .bgr888 => some .drawBgr888
  | .i420 => some .drawI420
  | .yv12 => some .drawYv12
  | .i422 => some .drawI422
  | .i444 => some .drawI444
  | .i400 => some .drawI400
  | .nv12 => some .drawNv12
  | .nv21 => some .drawNv21
  | .yuy2 => some .drawYuy2
  | .uyvy => some .drawUyvy
  | _ => none

/-- A listed format-using OP with listed formats: its command, or the unsupported side (R104, last paragraph). -/
def selectImage (op : Op) (s d : PixelFormat) : Except DecodeError Instr :=
  match op with
  | .debayer =>
    match selectDebayer s with
    | none => .error (.unsupportedSource op)
    | some (toBgr, to565) =>
      match d with
      | .bgr888 => .ok toBgr
      | .rgb565 => .ok to565
      | _ => .error (.unsupportedDestination op)
  | .ccmApply | .gammaApply =>
    match (if op = .ccmApply then selectCcm s else selectGamma s) with
    | none => .error (.unsupportedSource op)
    | some i => if d = s then .ok i else .error (.unsupportedDestination op)
  | _ =>
    match (if op = .convert then selectConvert s else selectDraw s) with
    | none => .error (.unsupportedSource op)
    | some i => if d = .rgb565 then .ok i else .error (.unsupportedDestination op)

/-- The decoder of R104 on the fields of a word: the four steps in order, then the selection of R103. -/
def decodeFields (f : CmdFields) : Except DecodeError Instr :=
  if f.rsvd ≠ 0x00 then .error .reservedBits
  else
    match decodeOp f.op with
    | none => .error .undefinedOp
    | some op =>
      match selectPlain op with
      | some i =>
        if f.sfmt ≠ 0x00 then .error .illegalSource
        else if f.dfmt ≠ 0x00 then .error .illegalDestination
        else .ok i
      | none =>
        match decodeFormat f.sfmt with
        | none => .error .illegalSource
        | some s =>
          match decodeFormat f.dfmt with
          | none => .error .illegalDestination
          | some d => selectImage op s d

/-- The decoder: total on every 32-bit word (R104). -/
def decode (w : Word) : Except DecodeError Instr := decodeFields (CmdFields.ofWord w)

/-- The encoder: the one word of a command (R103). -/
def encode (i : Instr) : Word := i.fields.toWord

/-- The instruction that the decoder reads from a table word. A command is one 32-bit register write (R106), so the bits
are the word itself and `nbits` is 32; bits above `nbits` are 0. -/
def decodeTableWord (nbits w : Nat) : Option Instr :=
  match decode (BitVec.ofNat 32 (w % 2 ^ nbits)) with
  | .ok i => some i
  | .error _ => none

end Sys2Proof
end

