-- ==== Sys2Proof/Config.lean ====
section
/-! DEFINITION. What an implementation fixes (00_scope.md R8) and the free values: constants WITHOUT a body, one for each
point of spec/93_implementation_defined.md whose treatment is "any value". They are applied to the counter
`State.freeCount`, which each use advances, so that two uses are not tied to one another. -/

namespace Sys2Proof

/-- Number of byte addresses of the memory space (20_memory.md R70 (b)). -/
def Config.addressSpace : Nat := 4294967296

/-- Size in bytes of the register block (10_state.md R20). -/
def Config.blockBytes : Nat := 4096

/-- Number of gamma table entries (00_scope.md R8, LUT_SIZE). -/
def Config.lutSize : Nat := 256

/-- What a memory byte that nothing has written reads as. DESIGN CHOICE, unsafe (log 3): the spec leaves it
unconstrained (20_memory.md R71, U13). -/
def Config.unwrittenByte : Byte := 0

/-- FREE VALUE (U4; log 9): in the n-th stop of a command, was this destination byte already written? -/
opaque Config.writePerformed : Nat → Nat → Bool

/-- FREE VALUE (R275, R302; log 12): had the command that the n-th stop hits begun its effects? -/
opaque Config.effectsBegun : Nat → Bool

/-- FREE VALUE (U5; log 10): which of several failing accesses the n-th stop reports, as an index. -/
opaque Config.failingAccess : Nat → Nat

/-- FREE VALUE (U6; log 11): an extra sample that CONVERT or DRAW reads (position of the plane among the used ones,
row, byte offset in the row). -/
opaque Config.extraRead : Nat → Nat × Nat × Nat

/-- FREE VALUE (U11; log 17): had the display already switched when the n-th such reset hit WAIT_VSYNC? -/
opaque Config.switchedAtReset : Nat → Bool

end Sys2Proof
end

