-- ==== Sys2Proof/Machine/State.lean ====
section
/-! DEFINITION. The machine's state, all of it plain data (10_state.md), the events of 60_exceptions.md R294, the ways a
model step can stop, and the state right after reset (R55). -/

namespace Sys2Proof.Machine

/-- The engine phase (10_state.md R24). STATUS.BUSY, FAILED and PRESENT_PENDING are its functions. -/
inductive Phase where
  | idle | exec | waitVsync | failed
deriving DecidableEq, Repr

/-- The error codes of 60_exceptions.md R271, in the order of their numbers 0–7. -/
inductive ErrCode where
  | none | illegalCmd | sequenceError | invalidFormat | conversionFailed | hardwareFault
  /-- Code 6: reserved for the host's status words, never raised (R280). -/
  | allocationFailure
  /-- Code 7: reserved for the host's status words, never raised (R280). -/
  | captureError
deriving DecidableEq, Repr

/-- The width of a host access (20_memory.md R86; 30_encoding.md R109 `mem.b`, `mem.h`, `mem.w`). -/
inductive AccessSize where
  | byte | half | word
deriving DecidableEq, Repr

/-- One event of the model's alphabet (60_exceptions.md R294). -/
inductive Event where
  /-- The engine's command step: checks, effects and completion of the accepted command (R122). A bus error is the
  memory system's answer inside it. -/
  | command
  /-- A host store of 1, 2 or 4 bytes at a bus address: to the register block or to memory. -/
  | hostStore (addr : Word) (size : AccessSize) (value : Word)
  /-- A host load of 1, 2 or 4 bytes at a bus address: of a register or of memory. -/
  | hostLoad (addr : Word) (size : AccessSize)
  /-- The display has switched scan-out at a vertical sync (44_framebuffer.md R233). -/
  | vsyncAck
  /-- The display's asynchronous error notification (R233). -/
  | dispErr
  /-- The platform's reset (70_reset_and_hazards.md R300). -/
  | hardwareReset
  /-- The host configures the display driver with the surface to scan out (R306). -/
  | displayConfigure (base : Word)
deriving DecidableEq, Repr

/-- The nine coefficient registers CCM_Cjk (10_state.md R43): their defined bits [15:0]. -/
structure Ccm where
  c00 : Half
  c01 : Half
  c02 : Half
  c10 : Half
  c11 : Half
  c12 : Half
  c20 : Half
  c21 : Half
  c22 : Half
deriving DecidableEq, Repr

/-- The parameter registers, those that 10_state.md R21 marks P: frozen while STATUS.BUSY = 1 (R22, R54). Reserved bits
have no storage (they read 0). -/
structure Params where
  /-- PIX_IN (R38). -/
  pixIn : Word
  /-- SRC_SIZE {SRC_H, SRC_W} (R39). -/
  srcSize : Word
  srcBase0 : Word
  srcPitch0 : Word
  srcBase1 : Word
  srcPitch1 : Word
  srcBase2 : Word
  srcPitch2 : Word
  /-- DST_SIZE {DST_H, DST_W} (R40). -/
  dstSize : Word
  dstBase : Word
  dstPitch : Word
  /-- DST_POS {DST_Y, DST_X} (R41). -/
  dstPos : Word
  /-- CCM_CTRL.EN (R42). -/
  ccmEn : Bool
  /-- CCM_C00 … CCM_C22 (R43). -/
  ccm : Ccm
  /-- FB_CFG.N (R44). -/
  fbN : BitVec 3
  /-- FB_SIZE {FB_H, FB_W} (R45). -/
  fbSize : Word
  fbPitch : Word
  /-- FB_BASE0 … FB_BASE3 (R47). -/
  fbBase0 : Word
  fbBase1 : Word
  fbBase2 : Word
  fbBase3 : Word
deriving DecidableEq, Repr

/-- The memory space (20_memory.md R70 (b)): the bytes that differ from `Config.unwrittenByte`, by rising address. -/
abbrev Memory := List Host.Cell

/-- The whole machine: the engine's registers and hidden state, the display's SCAN_BASE, memory, the platform's
parameters, and the model's own fields (the last three). INVENTORY.md lists each with its rule and reset value. -/
structure State where
  /-- The parameter registers (R21). -/
  params : Params
  /-- The engine phase (R24). -/
  phase : Phase
  /-- STATUS.LUT_VALID (R29). -/
  lutValid : Bool
  /-- STATUS.IN_FRAME (R30). -/
  inFrame : Bool
  /-- STATUS.ERR_CODE (R32). -/
  errCode : ErrCode
  /-- IRQ_STATUS {REJECTED, ERROR, DONE} (R33). -/
  irqStatus : BitVec 3
  /-- IRQ_EN, in the same order (R34). -/
  irqEn : BitVec 3
  /-- ERR_INFO.OP (R36). -/
  errOp : Byte
  /-- ERR_INFO.CHECK (R36). -/
  errCheck : Byte
  /-- ERR_INFO.PLANE (R36). -/
  errPlane : BitVec 2
  /-- ERR_ADDR (R37). -/
  errAddr : Word
  /-- PIX_OUT (R38). -/
  pixOut : Word
  /-- FB_ACTIVE.ACTIVE_IDX (R46). -/
  activeIdx : BitVec 2
  /-- The LUT RAM, entry 0 first (R51). -/
  lutRam : List Byte
  /-- CUR_CMD (R52). -/
  curCmd : Word
  /-- PRESENT_TARGET (R52). -/
  presentTarget : BitVec 2
  /-- DISP_REQ (44_framebuffer.md R233). -/
  dispReq : Bool
  /-- DISP_ADDR (R233). -/
  dispAddr : Word
  /-- The display agent's SCAN_BASE (R53). -/
  scanBase : Word
  /-- The memory space (R70, R71). -/
  mem : Memory
  /-- ENGINE_BASE, a parameter of the platform that no step changes (R20; log 5). -/
  engineBase : Word
  /-- BUS_ERROR_MAP, as inclusive address ranges; no step changes it (00_scope.md R8; log 5). -/
  busErrors : List (Word × Word)
  /-- The model's own: the events still to come, cycle by cycle (R286, R294; log 2). -/
  inputs : List (List Event)
  /-- The model's own: what the last host load returned (log 7). -/
  hostData : Word
  /-- The model's own: how many free values have been used (log 8). -/
  freeCount : Nat
deriving DecidableEq, Repr

/-- Why the model stops with a fault. An engine error is not one of these: error entry is a next state in phase FAILED
(60_exceptions.md R274). -/
inductive Fault where
  /-- Raised by a host load or store whose last byte lies above 0xFFFFFFFF, outside the memory space (20_memory.md R70).
  Safe: the spec gives such an access no meaning. -/
  | beyondAddressSpace
deriving DecidableEq, Repr

/-- Why the model refuses a step. -/
inductive Refusal where
  /-- Raised by an arm of exec whose instruction has no meaning yet. Safe. -/
  | notModelled (mnemonic : String)
  /-- Raised by an image command whose destination range meets a source plane's range other than exactly in place
  (20_memory.md R94: "the model refuses such a command"; U7). Safe. -/
  | sourceDestinationOverlap
  /-- Raised by a host access to memory in the ranges of the command in progress (20_memory.md R93: "the model refuses
  it"; U8). Safe. -/
  | hostRace
  /-- Raised by a host access to the register block that is not 32 bits wide and 4-byte aligned (20_memory.md R86: "the
  model refuses the host step"; U14). Safe. -/
  | narrowRegisterAccess
deriving DecidableEq, Repr

/-- The parameter registers after reset (R55): all 0, but FB_CFG.N = 2. -/
def Params.reset : Params where
  pixIn := 0
  srcSize := 0
  srcBase0 := 0
  srcPitch0 := 0
  srcBase1 := 0
  srcPitch1 := 0
  srcBase2 := 0
  srcPitch2 := 0
  dstSize := 0
  dstBase := 0
  dstPitch := 0
  dstPos := 0
  ccmEn := false
  ccm := ⟨0, 0, 0, 0, 0, 0, 0, 0, 0⟩
  fbN := 2
  fbSize := 0
  fbPitch := 0
  fbBase0 := 0
  fbBase1 := 0
  fbBase2 := 0
  fbBase3 := 0

/-- The machine right after reset (R55, 70_reset_and_hazards.md R300). The spec gives no value for `lutRam` (log 4),
`scanBase` (log 6), `mem` (log 3), `engineBase` and `busErrors` (log 5), and the last three fields are the model's own
(logs 2, 7, 8). -/
def State.reset : State where
  params := Params.reset
  phase := .idle
  lutValid := false
  inFrame := false
  errCode := .none
  irqStatus := 0
  irqEn := 0
  errOp := 0
  errCheck := 0
  errPlane := 0
  errAddr := 0
  pixOut := 0
  activeIdx := 0
  lutRam := List.replicate Config.lutSize 0
  curCmd := 0
  presentTarget := 0
  dispReq := false
  dispAddr := 0
  scanBase := 0
  mem := []
  engineBase := 0xFFFFF000
  busErrors := []
  inputs := []
  hostData := 0
  freeCount := 0

end Sys2Proof.Machine
end

