-- ==== Sys2Proof/Machine/Color.lean ====
section
/-! DEFINITION. The Color Model as pure functions (41_color_model.md §1–§4): YUV to RGB, RGB565 packing, the colour
correction matrix, the gamma table. Arithmetic is on unbounded integers; `>>` is the floor shift (00_scope.md R10). -/

namespace Sys2Proof.Machine

/-- An RGB pixel of 8-bit channels (00_scope.md R12). -/
structure Rgb where
  r : Byte
  g : Byte
  b : Byte
deriving DecidableEq, Repr

/-- `clamp8` of 00_scope.md R10. -/
def clamp8 (v : Int) : Byte := if v < 0 then 0 else if 255 < v then 255 else BitVec.ofNat 8 v.toNat

/-- `yuvToRgb`, the exact integer transform of R140. -/
def yuvToRgb (y u v : Byte) : Rgb :=
  let c : Int := (y.toNat : Int) - 16
  let d : Int := (u.toNat : Int) - 128
  let e : Int := (v.toNat : Int) - 128
  { r := clamp8 ((298 * c + 409 * e + 128) >>> 8)
    g := clamp8 ((298 * c - 100 * d - 208 * e + 128) >>> 8)
    b := clamp8 ((298 * c + 516 * d + 128) >>> 8) }

/-- `packRgb565` (R142). -/
def packRgb565 (p : Rgb) : Half :=
  ((p.r >>> 3).setWidth 16 <<< 11) ||| ((p.g >>> 2).setWidth 16 <<< 5) ||| (p.b >>> 3).setWidth 16

/-- `unpackRgb565`, the midpoint reconstruction of R143. -/
def unpackRgb565 (p : Half) : Rgb :=
  { r := (p.extractLsb' 11 5).setWidth 8 <<< 3 ||| 4
    g := (p.extractLsb' 5 6).setWidth 8 <<< 2 ||| 2
    b := (p.extractLsb' 0 5).setWidth 8 <<< 3 ||| 4 }

/-- One output channel of R145: a row of Q8.8 coefficients, bias 128, floor shift by 8, saturation. -/
def ccmRow (m0 m1 m2 : Half) (p : Rgb) : Byte :=
  clamp8 ((m0.toInt * (p.r.toNat : Int) + m1.toInt * (p.g.toNat : Int) + m2.toInt * (p.b.toNat : Int) + 128) >>> 8)

/-- `ccm` for a present matrix (R145): row j gives output channel j. -/
def ccmApply (m : Ccm) (p : Rgb) : Rgb :=
  { r := ccmRow m.c00 m.c01 m.c02 p
    g := ccmRow m.c10 m.c11 m.c12 p
    b := ccmRow m.c20 m.c21 m.c22 p }

/-- The colour correction that CCM_CTRL.EN selects: the identity when the matrix is absent (R146). -/
def ccmOrId (en : Bool) (m : Ccm) (p : Rgb) : Rgb := if en then ccmApply m p else p

/-- The gamma table, entries 0 to 127 (R152). -/
def gammaTableLow : List Byte :=
  [0, 13, 22, 28, 34, 38, 42, 46, 50, 53, 56, 59, 61, 64, 66, 69] ++
  [71, 73, 75, 77, 79, 81, 83, 85, 86, 88, 90, 92, 93, 95, 96, 98] ++
  [99, 101, 102, 104, 105, 106, 108, 109, 110, 112, 113, 114, 115, 117, 118, 119] ++
  [120, 121, 122, 124, 125, 126, 127, 128, 129, 130, 131, 132, 133, 134, 135, 136] ++
  [137, 138, 139, 140, 141, 142, 143, 144, 145, 146, 147, 148, 148, 149, 150, 151] ++
  [152, 153, 154, 155, 155, 156, 157, 158, 159, 159, 160, 161, 162, 163, 163, 164] ++
  [165, 166, 167, 167, 168, 169, 170, 170, 171, 172, 173, 173, 174, 175, 175, 176] ++
  [177, 178, 178, 179, 180, 180, 181, 182, 182, 183, 184, 185, 185, 186, 187, 187]

/-- The gamma table, entries 128 to 255 (R152). -/
def gammaTableHigh : List Byte :=
  [188, 189, 189, 190, 190, 191, 192, 192, 193, 194, 194, 195, 196, 196, 197, 197] ++
  [198, 199, 199, 200, 200, 201, 202, 202, 203, 203, 204, 205, 205, 206, 206, 207] ++
  [208, 208, 209, 209, 210, 210, 211, 212, 212, 213, 213, 214, 214, 215, 215, 216] ++
  [216, 217, 218, 218, 219, 219, 220, 220, 221, 221, 222, 222, 223, 223, 224, 224] ++
  [225, 226, 226, 227, 227, 228, 228, 229, 229, 230, 230, 231, 231, 232, 232, 233] ++
  [233, 234, 234, 235, 235, 236, 236, 237, 237, 238, 238, 238, 239, 239, 240, 240] ++
  [241, 241, 242, 242, 243, 243, 244, 244, 245, 245, 246, 246, 246, 247, 247, 248] ++
  [248, 249, 249, 250, 250, 251, 251, 251, 252, 252, 253, 253, 254, 254, 255, 255]

/-- The gamma table of R152, LUT[0] first. -/
def gammaTable : List Byte := gammaTableLow ++ gammaTableHigh

/-- Entry `i` of a gamma table held in the LUT RAM. -/
def lutEntry (lut : List Byte) (i : Byte) : Byte := lut.getD i.toNat 0

/-- `gamma` (R154): the same table for each channel. -/
def gammaApply (lut : List Byte) (p : Rgb) : Rgb :=
  { r := lutEntry lut p.r, g := lutEntry lut p.g, b := lutEntry lut p.b }

end Sys2Proof.Machine
end

