-- ==== Sys2Proof/Machine/Flags.lean ====
section
/-! DEFINITION. The only flags of the engine (10_state.md R50): the STATUS bits (R26), the IRQ_STATUS bits (R33), the IRQ
output (60_exceptions.md R285), and the error registers as words. No command has arithmetic flags. -/

namespace Sys2Proof.Machine

/-- STATUS.BUSY: 1 in phases EXEC and WAIT_VSYNC (R24, R26). -/
def State.busy (s : State) : Bool :=
  match s.phase with
  | .exec | .waitVsync => true
  | .idle | .failed => false

/-- STATUS.FAILED: 1 in phase FAILED (R24, R28). -/
def State.isFailed (s : State) : Bool :=
  match s.phase with
  | .failed => true
  | .idle | .exec | .waitVsync => false

/-- STATUS.PRESENT_PENDING: 1 exactly in phase WAIT_VSYNC (R24, R31). -/
def State.presentPending (s : State) : Bool :=
  match s.phase with
  | .waitVsync => true
  | .idle | .exec | .failed => false

/-- The number of an error code (60_exceptions.md R271). -/
def ErrCode.number : ErrCode → BitVec 4
  | .none => 0
  | .illegalCmd => 1
  | .sequenceError => 2
  | .invalidFormat => 3
  | .conversionFailed => 4
  | .hardwareFault => 5
  | .allocationFailure => 6
  | .captureError => 7

/-- A flag as one bit. -/
def flagBit (b : Bool) : BitVec 1 := BitVec.ofBool b

/-- The STATUS register (R26): ERR_CODE in [11:8], then PRESENT_PENDING, IN_FRAME, LUT_VALID, FAILED, BUSY from bit 4. -/
def statusWord (s : State) : Word :=
  0#20 ++ s.errCode.number ++ 0#3 ++ flagBit s.presentPending ++ flagBit s.inFrame ++ flagBit s.lutValid
    ++ flagBit s.isFailed ++ flagBit s.busy

/-- The ERR_INFO register {14'b0, PLANE, CHECK, OP} (R36). -/
def errInfoWord (s : State) : Word := 0#14 ++ s.errPlane ++ s.errCheck ++ s.errOp

/-- IRQ_STATUS.DONE (R33). -/
def irqDone : BitVec 3 := 1

/-- IRQ_STATUS.ERROR (R33). -/
def irqError : BitVec 3 := 2

/-- IRQ_STATUS.REJECTED (R33). -/
def irqRejected : BitVec 3 := 4

/-- A hardware event sets IRQ_STATUS bits (R33). -/
def State.raiseIrq (s : State) (bits : BitVec 3) : State := { s with irqStatus := s.irqStatus ||| bits }

/-- The IRQ output, a level (R34, R285). -/
def State.irq (s : State) : Bool := s.irqStatus &&& s.irqEn != 0

/-- INACTIVE_IDX = (ACTIVE_IDX + 1) mod N (10_state.md R46). -/
def State.inactiveIdx (s : State) : BitVec 2 := BitVec.ofNat 2 ((s.activeIdx.toNat + 1) % s.params.fbN.toNat)

/-- FB_BASE[k] (R47). -/
def Params.fbBase (p : Params) (k : BitVec 2) : Word :=
  if k = 0 then p.fbBase0 else if k = 1 then p.fbBase1 else if k = 2 then p.fbBase2 else p.fbBase3

/-- The FB_ACTIVE register: ACTIVE_IDX in [1:0], INACTIVE_IDX in [9:8] (R46). -/
def fbActiveWord (s : State) : Word := 0#22 ++ s.inactiveIdx ++ 0#6 ++ s.activeIdx

end Sys2Proof.Machine
end

