-- ==== Sys2Proof/Machine/Ops.lean ====
section
/-! DEFINITION. The named operations: reading and writing memory in its one canonical form, little-endian (20_memory.md
R72); error entry, the engine's one way of taking an error (60_exceptions.md R274); completion (40_command_cycle.md R126);
building the gamma table (41_color_model.md R153); the engine reset, the one way out of FAILED (R279, R300). -/

namespace Sys2Proof.Machine

/-- One byte of memory (R70). An unlisted address reads as `Config.unwrittenByte` (log 3). -/
def Memory.read : Memory → Nat → Byte
  | [], _ => Config.unwrittenByte
  | (k, v) :: rest, a => if k = a then v else Memory.read rest a

/-- Write one byte, keeping the canonical form: rising addresses, and no entry that equals an unwritten byte. -/
def Memory.write : Memory → Nat → Byte → Memory
  | [], a, v => if v = Config.unwrittenByte then [] else [(a, v)]
  | (k, w) :: rest, a, v =>
    if a < k then
      if v = Config.unwrittenByte then (k, w) :: rest else (a, v) :: (k, w) :: rest
    else if a = k then
      if v = Config.unwrittenByte then rest else (a, v) :: rest
    else (k, w) :: Memory.write rest a v

/-- The canonical form: addresses strictly rising and inside the memory space, no entry that equals an unwritten byte. -/
def Memory.wf : Memory → Bool
  | [] => true
  | (k, v) :: rest =>
    decide (k < Config.addressSpace) && v != Config.unwrittenByte && rest.all (fun c => decide (k < c.1)) && Memory.wf rest

/-- `MemRead(addr, n)` (R72): n bytes, little-endian. -/
def Memory.readLE (m : Memory) (a : Nat) : Nat → Nat
  | 0 => 0
  | n + 1 => (m.read a).toNat + 256 * m.readLE (a + 1) n

/-- The n low bytes of v, least significant first (R72). -/
def leBytes (v : Nat) : Nat → List Byte
  | 0 => []
  | n + 1 => BitVec.ofNat 8 v :: leBytes (v / 256) n

/-- Write bytes at rising addresses from `a`. -/
def Memory.writeBytes (m : Memory) (a : Nat) : List Byte → Memory
  | [] => m
  | b :: rest => (m.write a b).writeBytes (a + 1) rest

/-- `MemWrite(addr, n, v)` (R72). -/
def Memory.writeLE (m : Memory) (a n v : Nat) : Memory := m.writeBytes a (leBytes v n)

/-- The OP that an error reports: the running command's, or 0 when none runs (R274, R36). -/
def State.runningOp (s : State) : Byte := if s.busy then s.curCmd.extractLsb' 0 8 else 0

/-- The record that error entry writes (R274), whatever the phase. -/
def State.enterFailed (s : State) (code : ErrCode) (check : Byte) (plane : BitVec 2) (addr : Word) : State :=
  { s with
    errCode := code
    phase := .failed
    errPlane := plane
    errCheck := check
    errOp := s.runningOp
    errAddr := addr
    dispReq := false
    dispAddr := 0
    irqStatus := s.irqStatus ||| irqError }

/-- Error entry, `raise Error(code, check, plane, addr)` (R274). In FAILED it does nothing (R278). -/
def raiseError (code : ErrCode) (check : Byte) (plane : BitVec 2) (addr : Word) (s : State) : State :=
  if s.phase = .failed then s else s.enterFailed code check plane addr

/-- Completion of every command but PRESENT (R126). -/
def complete (s : State) : State := { s with phase := .idle, irqStatus := s.irqStatus ||| irqDone }

/-- Write the gamma table into the LUT RAM and mark it valid (41_color_model.md R153). -/
def State.buildLut (s : State) : State := { s with lutRam := gammaTable, lutValid := true }

/-- `EnsureLUT()` (R153): the single-initialisation guard. -/
def ensureLut (s : State) : State := if s.lutValid then s else s.buildLut

/-- The engine's part of a reset, hardware or soft (10_state.md R55; 70_reset_and_hazards.md R300, R301). Memory, SCAN_BASE,
the platform's parameters and the model's own fields are left alone (R303). -/
def State.resetEngine (s : State) : State :=
  { State.reset with
    scanBase := s.scanBase
    mem := s.mem
    engineBase := s.engineBase
    busErrors := s.busErrors
    inputs := s.inputs
    hostData := s.hostData
    freeCount := s.freeCount }

/-- Acceptance of a command word (40_command_cycle.md R120). -/
def State.accept (s : State) (w : Word) : State := { s with curCmd := w, phase := .exec }

end Sys2Proof.Machine
end

