-- ==== Sys2Proof/Machine/Operands.lean ====
section
/-! DEFINITION. The operands of the commands: the fields of the descriptor registers (30_encoding.md R107), the planes of an
image and their ranges (20_memory.md R74–R83), the engine's accesses and their widths (R85), and how one source pixel is
read (41_color_model.md R149, 43_format_converter.md R204–R213) and one destination pixel written (R150, R202). -/

namespace Sys2Proof.Machine

/-- SRC_W (10_state.md R39). -/
def Params.srcW (p : Params) : Nat := (p.srcSize.extractLsb' 0 16).toNat
/-- SRC_H (R39). -/
def Params.srcH (p : Params) : Nat := (p.srcSize.extractLsb' 16 16).toNat
/-- DST_W (R40). -/
def Params.dstW (p : Params) : Nat := (p.dstSize.extractLsb' 0 16).toNat
/-- DST_H (R40). -/
def Params.dstH (p : Params) : Nat := (p.dstSize.extractLsb' 16 16).toNat
/-- DST_X (R41). -/
def Params.dstX (p : Params) : Nat := (p.dstPos.extractLsb' 0 16).toNat
/-- DST_Y (R41). -/
def Params.dstY (p : Params) : Nat := (p.dstPos.extractLsb' 16 16).toNat
/-- FB_W (R45). -/
def Params.fbW (p : Params) : Nat := (p.fbSize.extractLsb' 0 16).toNat
/-- FB_H (R45). -/
def Params.fbH (p : Params) : Nat := (p.fbSize.extractLsb' 16 16).toNat

/-- The RGB family (00_scope.md R16). -/
inductive RgbFormat where
  | rgb565 | bgr888 | argb8888
deriving DecidableEq, Repr

/-- The sources of CONVERT and DRAW (43_format_converter.md R201, 45_compositor.md R253). -/
inductive StreamFormat where
  | rgb565 | bgr888 | i420 | yv12 | i422 | i444 | i400 | nv12 | nv21 | yuy2 | uyvy
deriving DecidableEq, Repr

/-- Bytes per pixel of the RGB family (20_memory.md R82). -/
def RgbFormat.bpp : RgbFormat → Nat
  | .rgb565 => 2
  | .bgr888 => 3
  | .argb8888 => 4

/-- One plane of an image: its ERR_INFO.PLANE number (60_exceptions.md R272), base, pitch, rows and row bytes (R82). -/
structure Plane where
  number : BitVec 2
  base : Nat
  pitch : Nat
  rows : Nat
  rowBytes : Nat
deriving DecidableEq, Repr

/-- The address of the plane's last byte, as an unbounded integer (R83). -/
def Plane.last (p : Plane) : Nat := p.base + (p.rows - 1) * p.pitch + p.rowBytes - 1

/-- Two planes' ranges [base, last] share an address (R94). -/
def Plane.meets (p q : Plane) : Bool := decide (p.base ≤ q.last ∧ q.base ≤ p.last)

/-- Source plane 0 with the given rows and row bytes (R39, R74). -/
def Params.srcPlane0 (p : Params) (rows rowBytes : Nat) : Plane :=
  ⟨0, p.srcBase0.toNat, p.srcPitch0.toNat, rows, rowBytes⟩
/-- Source plane 1. -/
def Params.srcPlane1 (p : Params) (rows rowBytes : Nat) : Plane :=
  ⟨1, p.srcBase1.toNat, p.srcPitch1.toNat, rows, rowBytes⟩
/-- Source plane 2. -/
def Params.srcPlane2 (p : Params) (rows rowBytes : Nat) : Plane :=
  ⟨2, p.srcBase2.toNat, p.srcPitch2.toNat, rows, rowBytes⟩

/-- The used source planes of a CONVERT or DRAW source (R82). -/
def StreamFormat.planes (f : StreamFormat) (p : Params) : List Plane :=
  let w := p.srcW
  let h := p.srcH
  match f with
  | .rgb565 => [p.srcPlane0 h (2 * w)]
  | .bgr888 => [p.srcPlane0 h (3 * w)]
  | .i420 | .yv12 => [p.srcPlane0 h w, p.srcPlane1 (h / 2) (w / 2), p.srcPlane2 (h / 2) (w / 2)]
  | .i422 => [p.srcPlane0 h w, p.srcPlane1 h (w / 2), p.srcPlane2 h (w / 2)]
  | .i444 => [p.srcPlane0 h w, p.srcPlane1 h w, p.srcPlane2 h w]
  | .i400 => [p.srcPlane0 h w]
  | .nv12 | .nv21 => [p.srcPlane0 h w, p.srcPlane1 (h / 2) w]
  | .yuy2 | .uyvy => [p.srcPlane0 h (2 * w)]

/-- Check 11's condition for CONVERT and DRAW: an odd dimension that the format subsamples (43_format_converter.md R217). -/
def StreamFormat.oddSize (f : StreamFormat) (w h : Nat) : Bool :=
  match f with
  | .i420 | .yv12 | .nv12 | .nv21 => w % 2 == 1 || h % 2 == 1
  | .i422 | .yuy2 | .uyvy => w % 2 == 1
  | .rgb565 | .bgr888 | .i444 | .i400 => false

/-- One engine access: its lowest byte address, its size in bytes, and the plane a bus error on it reports (R272). -/
structure Access where
  addr : Nat
  size : Nat
  plane : BitVec 2
deriving DecidableEq, Repr

/-- One engine write access with the bytes it stores. -/
structure Store where
  addr : Nat
  bytes : List Byte
deriving DecidableEq, Repr

/-- The access of a store: plane 3, the destination (R272). -/
def Store.access (st : Store) : Access := ⟨st.addr, st.bytes.length, 3⟩

/-- An n-byte access: one access where it is aligned, else byte by byte (20_memory.md R84, R85; log 13). -/
def alignedAccess (a n : Nat) (plane : BitVec 2) : List Access :=
  if a % n = 0 then [⟨a, n, plane⟩] else (List.range n).map fun k => ⟨a + k, 1, plane⟩

/-- Bytes stored one access each, at rising addresses. -/
def byteStores (a : Nat) : List Byte → List Store
  | [] => []
  | b :: rest => ⟨a, [b]⟩ :: byteStores (a + 1) rest

/-- A store of several bytes: one access where it is aligned, else byte by byte (R84, R85). -/
def alignedStore (a : Nat) (bytes : List Byte) : List Store :=
  if a % bytes.length = 0 then [⟨a, bytes⟩] else byteStores a bytes

/-- The read accesses of one RGB-family source pixel (41_color_model.md R149, 20_memory.md R85). -/
def RgbFormat.reads (f : RgbFormat) (a : Nat) : List Access :=
  match f with
  | .rgb565 => alignedAccess a 2 0
  | .bgr888 => [⟨a, 1, 0⟩, ⟨a + 1, 1, 0⟩, ⟨a + 2, 1, 0⟩]
  | .argb8888 => alignedAccess a 4 0

/-- The write accesses of one RGB-family destination pixel (R85): BGR888 is always three single-byte writes. -/
def RgbFormat.stores (f : RgbFormat) (a : Nat) (bytes : List Byte) : List Store :=
  match f with
  | .rgb565 | .argb8888 => alignedStore a bytes
  | .bgr888 => byteStores a bytes

/-- `ReadRGB` (R149): the pixel and its alpha; formats without alpha give 0, which `writeRgb` then ignores. -/
def readRgb (f : RgbFormat) (m : Memory) (a : Nat) : Rgb × Byte :=
  match f with
  | .rgb565 => (unpackRgb565 (BitVec.ofNat 16 (m.readLE a 2)), 0)
  | .bgr888 => (⟨m.read (a + 2), m.read (a + 1), m.read a⟩, 0)
  | .argb8888 => (⟨m.read (a + 2), m.read (a + 1), m.read a⟩, m.read (a + 3))

/-- `WriteRGB` (R150): the bytes of one destination pixel, lowest address first. -/
def writeRgb (f : RgbFormat) (p : Rgb) (alpha : Byte) : List Byte :=
  match f with
  | .rgb565 => leBytes (packRgb565 p).toNat 2
  | .bgr888 => [p.b, p.g, p.r]
  | .argb8888 => [p.b, p.g, p.r, alpha]

/-- The n bytes at `a` as they stand. -/
def rawBytes (m : Memory) (a n : Nat) : List Byte := (List.range n).map fun k => m.read (a + k)

/-- The luma and, where the format has chroma, the U and V sample accesses of pixel (col, i) of a YUV image
(20_memory.md R79–R81; 43_format_converter.md R205–R213); `none` for the RGB formats. -/
def StreamFormat.samples (f : StreamFormat) (p : Params) (col i : Nat) : Option (Access × Option (Access × Access)) :=
  let b0 := p.srcBase0.toNat
  let p0 := p.srcPitch0.toNat
  let b1 := p.srcBase1.toNat
  let p1 := p.srcPitch1.toNat
  let b2 := p.srcBase2.toNat
  let p2 := p.srcPitch2.toNat
  let y : Access := ⟨b0 + i * p0 + col, 1, 0⟩
  let half := col / 2
  let row := i / 2
  match f with
  | .rgb565 | .bgr888 => none
  | .i420 => some (y, some (⟨b1 + row * p1 + half, 1, 1⟩, ⟨b2 + row * p2 + half, 1, 2⟩))
  | .yv12 => some (y, some (⟨b2 + row * p2 + half, 1, 2⟩, ⟨b1 + row * p1 + half, 1, 1⟩))
  | .i422 => some (y, some (⟨b1 + i * p1 + half, 1, 1⟩, ⟨b2 + i * p2 + half, 1, 2⟩))
  | .i444 => some (y, some (⟨b1 + i * p1 + col, 1, 1⟩, ⟨b2 + i * p2 + col, 1, 2⟩))
  | .i400 => some (y, none)
  | .nv12 => some (y, some (⟨b1 + row * p1 + 2 * half, 1, 1⟩, ⟨b1 + row * p1 + 2 * half + 1, 1, 1⟩))
  | .nv21 => some (y, some (⟨b1 + row * p1 + 2 * half + 1, 1, 1⟩, ⟨b1 + row * p1 + 2 * half, 1, 1⟩))
  | .yuy2 =>
    let a := b0 + i * p0 + 4 * half
    some (⟨a + 2 * (col % 2), 1, 0⟩, some (⟨a + 1, 1, 0⟩, ⟨a + 3, 1, 0⟩))
  | .uyvy =>
    let a := b0 + i * p0 + 4 * half
    some (⟨a + 1 + 2 * (col % 2), 1, 0⟩, some (⟨a, 1, 0⟩, ⟨a + 2, 1, 0⟩))

/-- The address of pixel (col, i) of source plane 0 at `bpp` bytes per pixel (R74). -/
def Params.srcAddr (p : Params) (bpp col i : Nat) : Nat := p.srcBase0.toNat + i * p.srcPitch0.toNat + bpp * col

/-- The read accesses of one CONVERT or DRAW source pixel: one-byte samples, but for an RGB565 pixel's one 2-byte read
(R85). -/
def StreamFormat.reads (f : StreamFormat) (p : Params) (col i : Nat) : List Access :=
  match f.samples p col i with
  | some (y, none) => [y]
  | some (y, some (u, v)) => [y, u, v]
  | none =>
    match f with
    | .rgb565 => RgbFormat.rgb565.reads (p.srcAddr 2 col i)
    | _ => RgbFormat.bgr888.reads (p.srcAddr 3 col i)

/-- `Pixel(F, col, i)` (43_format_converter.md R204–R213), and DRAW's native copy for RGB565 (45_compositor.md R251). -/
def StreamFormat.pixel (f : StreamFormat) (p : Params) (m : Memory) (col i : Nat) : Half :=
  match f.samples p col i with
  | some (y, none) => packRgb565 (yuvToRgb (m.read y.addr) 128 128)
  | some (y, some (u, v)) => packRgb565 (yuvToRgb (m.read y.addr) (m.read u.addr) (m.read v.addr))
  | none =>
    match f with
    | .rgb565 => BitVec.ofNat 16 (m.readLE (p.srcAddr 2 col i) 2)
    | _ => packRgb565 (readRgb .bgr888 m (p.srcAddr 3 col i)).1

/-- A destination rectangle (10_state.md R40, R45): base, pitch, width and height. -/
structure Surface where
  base : Nat
  pitch : Nat
  width : Nat
  height : Nat
deriving DecidableEq, Repr

/-- The destination descriptor (R40). -/
def Params.dstSurface (p : Params) : Surface := ⟨p.dstBase.toNat, p.dstPitch.toNat, p.dstW, p.dstH⟩

/-- The inactive surface S_t, t = (ACTIVE_IDX + 1) mod N (45_compositor.md R252). -/
def State.inactiveSurface (s : State) : Surface :=
  ⟨(s.params.fbBase s.inactiveIdx).toNat, s.params.fbPitch.toNat, s.params.fbW, s.params.fbH⟩

/-- The active surface S_{ACTIVE_IDX}, the source's `activeBuffer()` view (44_framebuffer.md R231). -/
def State.activeSurface (s : State) : Surface :=
  ⟨(s.params.fbBase s.activeIdx).toNat, s.params.fbPitch.toNat, s.params.fbW, s.params.fbH⟩

/-- The destination's plane (R82): plane number 3 in ERR_INFO (60_exceptions.md R272). -/
def Surface.plane (d : Surface) (bpp : Nat) : Plane := ⟨3, d.base, d.pitch, d.height, d.width * bpp⟩

/-- The address of destination pixel (x, y) (R74). -/
def Surface.addr (d : Surface) (bpp x y : Nat) : Nat := d.base + y * d.pitch + bpp * x

/-- The RGB565 word of pixel (x, y) of a surface in memory (44_framebuffer.md R230). -/
def Surface.pixel565 (d : Surface) (m : Memory) (x y : Nat) : Nat := m.readLE (d.addr 2 x y) 2

/-- The coordinates (col, i) of a w × h image, row by row. -/
def pixels (w h : Nat) : List (Nat × Nat) := (List.range h).flatMap fun i => (List.range w).map fun col => (col, i)

end Sys2Proof.Machine
end

