-- ==== Sys2Proof/Machine/Demosaic.lean ====
section
/-! DEFINITION. The bilinear demosaic (42_demosaic.md R181–R185). -/

namespace Sys2Proof.Machine

/-- The four Bayer patterns (R181). -/
inductive BayerPattern where
  | rggb | grbg | gbrg | bggr
deriving DecidableEq, Repr

/-- The colour of a mosaic site. -/
inductive CfaColor where
  | red | green | blue
deriving DecidableEq, Repr

/-- The pattern's four letters, in the order (0,0), (1,0), (0,1), (1,1) (R181). -/
def BayerPattern.letters : BayerPattern → CfaColor × CfaColor × CfaColor × CfaColor
  | .rggb => (.red, .green, .green, .blue)
  | .grbg => (.green, .red, .blue, .green)
  | .gbrg => (.green, .blue, .red, .green)
  | .bggr => (.blue, .green, .green, .red)

/-- `color(x, y)` (R181). -/
def BayerPattern.color (p : BayerPattern) (x y : Nat) : CfaColor :=
  let (c00, c10, c01, c11) := p.letters
  if y % 2 = 0 then (if x % 2 = 0 then c00 else c10) else (if x % 2 = 0 then c01 else c11)

/-- Border mirroring without repeating the edge sample (R182). -/
def mirror (i : Int) (n : Nat) : Nat :=
  if i < 0 then (-i).toNat else if (n : Int) - 1 < i then (2 * ((n : Int) - 1) - i).toNat else i.toNat

/-- `avg2`, rounded half up (R183). -/
def avg2 (a b : Byte) : Byte := BitVec.ofNat 8 ((a.toNat + b.toNat + 1) >>> 1)

/-- `avg4`, rounded half up (R183). -/
def avg4 (a b c d : Byte) : Byte := BitVec.ofNat 8 ((a.toNat + b.toNat + c.toNat + d.toNat + 2) >>> 2)

/-- `demosaic(x, y)` (R184, R185) of a w × h mosaic whose samples are `raw`. -/
def demosaic (p : BayerPattern) (raw : Nat → Nat → Byte) (w h x y : Nat) : Rgb :=
  let sample (dx dy : Int) : Byte := raw (mirror ((x : Int) + dx) w) (mirror ((y : Int) + dy) h)
  let own := sample 0 0
  let edges := avg4 (sample (-1) 0) (sample 1 0) (sample 0 (-1)) (sample 0 1)
  let diagonals := avg4 (sample (-1) (-1)) (sample 1 (-1)) (sample (-1) 1) (sample 1 1)
  let horizontal := avg2 (sample (-1) 0) (sample 1 0)
  let vertical := avg2 (sample 0 (-1)) (sample 0 1)
  match p.color x y with
  | .red => ⟨own, edges, diagonals⟩
  | .blue => ⟨diagonals, edges, own⟩
  | .green => if p.color (x + 1) y = .red then ⟨horizontal, own, vertical⟩ else ⟨vertical, own, horizontal⟩

/-- `raw(x, y)`: the mosaic sample of source plane 0 (R180). -/
def Params.rawSample (p : Params) (m : Memory) (x y : Nat) : Byte := m.read (p.srcAddr 1 x y)

end Sys2Proof.Machine
end

