-- ==== Sys2Proof/Machine/Plan.lean ====
section
/-! DEFINITION. The image commands' shared operation: the checks 5–15 in ascending order (60_exceptions.md R272, R273), the
accesses and stores of the effects, overlap (20_memory.md R94), bus errors (R276) and what a stopped command leaves
(R275). A `Plan` is what one image command would do from a given state; `executePlan` does it. -/

namespace Sys2Proof.Machine

/-- A failed check: its error code, id and plane (R272). -/
structure Failure where
  code : ErrCode
  check : Byte
  plane : BitVec 2
deriving DecidableEq, Repr

/-- `raise Error` for a failed check: ERR_ADDR is 0 (10_state.md R37). -/
def raiseFailure (f : Failure) (s : State) : State := raiseError f.code f.check f.plane 0 s

/-- The first failing check of a list in ascending order (R273). -/
def firstFailure : List (Bool × Failure) → Option Failure
  | [] => none
  | (fails, f) :: rest => if fails then some f else firstFailure rest

/-- A CONVERSION_FAILED check (R271). -/
def conversionFailed (check : Byte) (plane : BitVec 2) : Failure := ⟨.conversionFailed, check, plane⟩

/-- Checks 9–15 (R272) of an image command with SRC_W × SRC_H source pixels, the used source planes and the destination
plane. `odd` is check 11's condition; `sameSize` says whether the command makes check 12. -/
def geometryChecks (p : Params) (planes : List Plane) (dst : Surface) (bpp : Nat) (odd sameSize : Bool) :
    List (Bool × Failure) :=
  [(p.srcW == 0 || p.srcH == 0, conversionFailed 9 0),
    (dst.width == 0 || dst.height == 0, conversionFailed 10 3),
    (odd, conversionFailed 11 0),
    (sameSize && (dst.width != p.srcW || dst.height != p.srcH), conversionFailed 12 3)]
  ++ planes.map (fun k => (decide (k.pitch < k.rowBytes), conversionFailed 13 k.number))
  ++ [(decide (dst.pitch < dst.width * bpp), conversionFailed 14 3)]
  ++ planes.map (fun k => (decide (Config.addressSpace ≤ k.last), conversionFailed 15 k.number))
  ++ [(decide (Config.addressSpace ≤ (dst.plane bpp).last), conversionFailed 15 3)]

/-- What one image command would do. -/
structure Plan where
  /-- The first failing check of 5–15. -/
  failure : Option Failure
  /-- The used source planes. -/
  sources : List Plane
  /-- The destination plane. -/
  dest : Plane
  /-- The command may run in place and does so exactly (R94). -/
  inPlace : Bool
  /-- The command begins with EnsureLUT (41_color_model.md R171). -/
  usesLut : Bool
  /-- The read accesses that the effects must make. -/
  reads : List Access
  /-- The write accesses of the effects. -/
  stores : List Store
  /-- The size of an extra sample read (R215); 0 where the command makes none. -/
  extraSample : Nat
deriving DecidableEq, Repr

/-- A source plane range meets the destination range, other than exactly in place (R94). -/
def Plan.overlaps (p : Plan) : Bool := p.sources.any (fun k => k.meets p.dest) && !p.inPlace

/-- The platform answers an engine access at this byte with a bus error (00_scope.md R8, BUS_ERROR_MAP). -/
def State.busErrorAt (s : State) (a : Nat) : Bool := s.busErrors.any fun r => decide (r.1.toNat ≤ a ∧ a ≤ r.2.toNat)

/-- An access gets a bus error when one of its bytes does (R276). -/
def State.busErrorOn (s : State) (a : Access) : Bool := (List.range a.size).any fun k => s.busErrorAt (a.addr + k)

/-- The plane's range holds an address that gives a bus error. -/
def State.busErrorIn (s : State) (p : Plane) : Bool :=
  s.busErrors.any fun r => decide (r.1.toNat ≤ r.2.toNat ∧ r.1.toNat ≤ p.last ∧ p.base ≤ r.2.toNat)

/-- The extra read, if the engine makes one (R215, U6; log 11): the free value names a sample of a used source plane. A
misaligned RGB565 sample is two accesses. -/
def Plan.extraReads (p : Plan) (s : State) : List Access :=
  if p.extraSample = 0 || !p.sources.any s.busErrorIn then []
  else
    let choice := Config.extraRead s.freeCount
    match p.sources[choice.1]? with
    | none => []
    | some k =>
      let row := choice.2.1
      let offset := choice.2.2 / p.extraSample * p.extraSample
      if row < k.rows && offset < k.rowBytes then
        alignedAccess (k.base + row * k.pitch + offset) p.extraSample k.number
      else []

/-- The accesses of the effects that can be the first to get a bus error. In place each pixel is read before it is written,
at the same addresses (20_memory.md R94, 40_command_cycle.md R124), so there a write is never the first. -/
def Plan.accesses (p : Plan) (s : State) : List Access :=
  if p.inPlace then p.reads else p.reads ++ p.extraReads s ++ p.stores.map Store.access

/-- Those of them that get a bus error. -/
def Plan.failing (p : Plan) (s : State) : List Access := (p.accesses s).filter s.busErrorOn

/-- One of several failing accesses, required or extra, byte accesses of one misaligned pixel among them: their order is open
(20_memory.md R85, R92, U5; log 10). -/
def pickFailing (n : Nat) : List Access → Option Access
  | [] => none
  | [a] => some a
  | a :: b :: rest => some ((a :: b :: rest).getD (Config.failingAccess n % (rest.length + 2)) a)

/-- The access whose bus error stops the command, if any (R276). -/
def Plan.busFault (p : Plan) (s : State) : Option Access := pickFailing s.freeCount (p.failing s)

/-- All stores of a command, performed. -/
def applyStores (stores : List Store) (m : Memory) : Memory :=
  match stores with
  | [] => m
  | st :: rest => applyStores rest (m.writeBytes st.addr st.bytes)

/-- Of these bytes, those that the free value says were written before the n-th stop (R275, U4; log 9). -/
def writeSome (n : Nat) (m : Memory) (a : Nat) : List Byte → Memory
  | [] => m
  | b :: rest => writeSome n (if Config.writePerformed n a then m.write a b else m) (a + 1) rest

/-- The stores of a stopped command: each byte old or new (R275), and no byte of an access that gets a bus error (R276). -/
def State.stopStores (s : State) (stores : List Store) : State :=
  { s with
    mem := go stores s.mem
    freeCount := s.freeCount + 1 }
where
  /-- The stores one after another. -/
  go : List Store → Memory → Memory
    | [], m => m
    | st :: rest, m => go rest (if s.busErrorOn st.access then m else writeSome s.freeCount m st.addr st.bytes)

/-- The command step of an image command (40_command_cycle.md R122): checks, then effects, then completion, or the bus
error that stops the effects. -/
def executePlan (p : Plan) (s : State) : Host.Outcome State Fault Refusal :=
  match p.failure with
  | some f => .next (raiseFailure f s)
  | none =>
    if p.overlaps then .refused .sourceDestinationOverlap
    else
      let s1 := if p.usesLut then ensureLut s else s
      match p.busFault s with
      | none => .next (complete { s1 with mem := applyStores p.stores s1.mem, freeCount := s1.freeCount + 1 })
      | some a => .next (raiseError .hardwareFault 16 a.plane (BitVec.ofNat 32 a.addr) (s1.stopStores p.stores))

/-- The destination bytes of one CCM_APPLY pixel whose source pixel is at `a` (R166). -/
def ccmPixelBytes (f : RgbFormat) (p : Params) (m : Memory) (a : Nat) : List Byte :=
  if p.ccmEn then
    let px := readRgb f m a
    writeRgb f (ccmApply p.ccm px.1) px.2
  else rawBytes m a f.bpp

/-- The destination bytes of one GAMMA_APPLY pixel whose source pixel is at `a` (R171). -/
def gammaPixelBytes (f : RgbFormat) (lut : List Byte) (m : Memory) (a : Nat) : List Byte :=
  let px := readRgb f m a
  writeRgb f (gammaApply lut px.1) px.2

/-- The plan of CCM_APPLY and GAMMA_APPLY on format `f` (R166, R171): checks 9, 10, 12–15, then one destination pixel for
each source pixel. -/
def correctionPlan (f : RgbFormat) (usesLut : Bool) (bytesAt : Nat → List Byte) (s : State) : Plan :=
  let p := s.params
  let dst := p.dstSurface
  let planes := [p.srcPlane0 p.srcH (f.bpp * p.srcW)]
  { failure := firstFailure (geometryChecks p planes dst f.bpp false true)
    sources := planes
    dest := dst.plane f.bpp
    inPlace := p.srcBase0 == p.dstBase && p.srcPitch0 == p.dstPitch
    usesLut := usesLut
    reads := (pixels p.srcW p.srcH).flatMap fun c => f.reads (p.srcAddr f.bpp c.1 c.2)
    stores := (pixels p.srcW p.srcH).flatMap fun c =>
      f.stores (dst.addr f.bpp c.1 c.2) (bytesAt (p.srcAddr f.bpp c.1 c.2))
    extraSample := 0 }

/-- CCM_APPLY.F (R166). -/
def ccmPlan (f : RgbFormat) (s : State) : Plan := correctionPlan f false (ccmPixelBytes f s.params s.mem) s

/-- GAMMA_APPLY.F (R171): the lookup uses the table that EnsureLUT leaves. -/
def gammaPlan (f : RgbFormat) (s : State) : Plan :=
  correctionPlan f true (gammaPixelBytes f (ensureLut s).lutRam s.mem) s

/-- DEBAYER.P.D (42_demosaic.md R186): checks 9–15, then the whole destination rectangle. Every sample of the plane is
read, each being its own site's colour. -/
def debayerPlan (pattern : BayerPattern) (d : RgbFormat) (s : State) : Plan :=
  let p := s.params
  let w := p.srcW
  let h := p.srcH
  let dst := p.dstSurface
  let planes := [p.srcPlane0 h w]
  { failure := firstFailure (geometryChecks p planes dst d.bpp (w % 2 == 1 || h % 2 == 1) true)
    sources := planes
    dest := dst.plane d.bpp
    inPlace := false
    usesLut := false
    reads := (pixels w h).map fun c => ⟨p.srcAddr 1 c.1 c.2, 1, 0⟩
    stores := (pixels w h).flatMap fun c =>
      d.stores (dst.addr d.bpp c.1 c.2) (writeRgb d (demosaic pattern (p.rawSample s.mem) w h c.1 c.2) 0)
    extraSample := 0 }

/-- The source pixels that fall inside a destination rectangle at offset (x, y): the clip loop of 43_format_converter.md
R200 and 45_compositor.md R251. -/
def clippedPixels (p : Params) (dst : Surface) : List (Nat × Nat) :=
  (pixels p.srcW p.srcH).filter fun c => decide (p.dstX + c.1 < dst.width ∧ p.dstY + c.2 < dst.height)

/-- The common part of CONVERT and DRAW (R200, R251): `sequence` is DRAW's check 5; the destination is RGB565. -/
def streamPlan (f : StreamFormat) (dst : Surface) (sequence : List (Bool × Failure)) (s : State) : Plan :=
  let p := s.params
  { failure := firstFailure
      (sequence ++ geometryChecks p (f.planes p) dst 2 (f.oddSize p.srcW p.srcH) false)
    sources := f.planes p
    dest := dst.plane 2
    inPlace := false
    usesLut := false
    reads := (clippedPixels p dst).flatMap fun c => f.reads p c.1 c.2
    stores := (clippedPixels p dst).flatMap fun c =>
      RgbFormat.rgb565.stores (dst.addr 2 (p.dstX + c.1) (p.dstY + c.2))
        (leBytes (f.pixel p s.mem c.1 c.2).toNat 2)
    extraSample := if f = .rgb565 then 2 else 1 }

/-- CONVERT.F (43_format_converter.md R200, R201). -/
def convertPlan (f : StreamFormat) (s : State) : Plan := streamPlan f s.params.dstSurface [] s

/-- DRAW.F (45_compositor.md R251–R253): check 5, then CONVERT's work on the inactive surface. -/
def drawPlan (f : StreamFormat) (s : State) : Plan :=
  streamPlan f s.inactiveSurface [(!s.inFrame, ⟨.sequenceError, 5, 0⟩)] s

end Sys2Proof.Machine
end

