-- ==== Sys2Proof/Machine/Compositor.lean ====
section
/-! DEFINITION. The compositor's commands (45_compositor.md R250–R265) and PRESENT (44_framebuffer.md R235, R236). -/

namespace Sys2Proof.Machine

/-- Check 6's error: SEQUENCE_ERROR inside a bracket (60_exceptions.md R272). -/
def bracketOpen : Failure := ⟨.sequenceError, 6, 0⟩

/-- Check 5's error: SEQUENCE_ERROR outside a bracket (R272). -/
def bracketMissing : Failure := ⟨.sequenceError, 5, 0⟩

/-- PRESENT's effects (R235): the request to the display; BUSY stays 1. -/
def State.requestPresent (s : State) : State :=
  { s with
    presentTarget := s.inactiveIdx
    dispAddr := s.params.fbBase s.inactiveIdx
    dispReq := true
    phase := .waitVsync }

/-- PRESENT (R235): check 6, then the request. It completes on VSYNC_ACK (R237). -/
def execPresent (s : State) : Host.Outcome State Fault Refusal :=
  if s.inFrame then .next (raiseFailure bracketOpen s) else .next s.requestPresent

/-- BEGIN_FRAME (R250): check 6, then IN_FRAME. -/
def execBeginFrame (s : State) : Host.Outcome State Fault Refusal :=
  if s.inFrame then .next (raiseFailure bracketOpen s) else .next (complete { s with inFrame := true })

/-- END_FRAME (R265): check 5, then IN_FRAME. -/
def execEndFrame (s : State) : Host.Outcome State Fault Refusal :=
  if s.inFrame then .next (complete { s with inFrame := false }) else .next (raiseFailure bracketMissing s)

/-- DRAW.RGB565 (R254). -/
def execDrawRgb565 (s : State) : Host.Outcome State Fault Refusal := executePlan (drawPlan .rgb565 s) s

/-- DRAW.BGR888 (R255). -/
def execDrawBgr888 (s : State) : Host.Outcome State Fault Refusal := executePlan (drawPlan .bgr888 s) s

/-- DRAW.I420 (R256). -/
def execDrawI420 (s : State) : Host.Outcome State Fault Refusal := executePlan (drawPlan .i420 s) s

/-- DRAW.YV12 (R257). -/
def execDrawYv12 (s : State) : Host.Outcome State Fault Refusal := executePlan (drawPlan .yv12 s) s

/-- DRAW.I422 (R258). -/
def execDrawI422 (s : State) : Host.Outcome State Fault Refusal := executePlan (drawPlan .i422 s) s

/-- DRAW.I444 (R259). -/
def execDrawI444 (s : State) : Host.Outcome State Fault Refusal := executePlan (drawPlan .i444 s) s

/-- DRAW.I400 (R260). -/
def execDrawI400 (s : State) : Host.Outcome State Fault Refusal := executePlan (drawPlan .i400 s) s

/-- DRAW.NV12 (R261). -/
def execDrawNv12 (s : State) : Host.Outcome State Fault Refusal := executePlan (drawPlan .nv12 s) s

/-- DRAW.NV21 (R262). -/
def execDrawNv21 (s : State) : Host.Outcome State Fault Refusal := executePlan (drawPlan .nv21 s) s

/-- DRAW.YUY2 (R263). -/
def execDrawYuy2 (s : State) : Host.Outcome State Fault Refusal := executePlan (drawPlan .yuy2 s) s

/-- DRAW.UYVY (R264). -/
def execDrawUyvy (s : State) : Host.Outcome State Fault Refusal := executePlan (drawPlan .uyvy s) s

end Sys2Proof.Machine
end

