-- ==== Sys2Proof/Machine/Convert.lean ====
section
/-! DEFINITION. The ten CONVERT commands (43_format_converter.md R200–R213), each one line over the shared plan. -/

namespace Sys2Proof.Machine

/-- CONVERT.BGR888 (R204). -/
def execConvertBgr888 (s : State) : Host.Outcome State Fault Refusal := executePlan (convertPlan .bgr888 s) s

/-- CONVERT.I420 (R205). -/
def execConvertI420 (s : State) : Host.Outcome State Fault Refusal := executePlan (convertPlan .i420 s) s

/-- CONVERT.YV12 (R206). -/
def execConvertYv12 (s : State) : Host.Outcome State Fault Refusal := executePlan (convertPlan .yv12 s) s

/-- CONVERT.I422 (R207). -/
def execConvertI422 (s : State) : Host.Outcome State Fault Refusal := executePlan (convertPlan .i422 s) s

/-- CONVERT.I444 (R208). -/
def execConvertI444 (s : State) : Host.Outcome State Fault Refusal := executePlan (convertPlan .i444 s) s

/-- CONVERT.I400 (R209). -/
def execConvertI400 (s : State) : Host.Outcome State Fault Refusal := executePlan (convertPlan .i400 s) s

/-- CONVERT.NV12 (R210). -/
def execConvertNv12 (s : State) : Host.Outcome State Fault Refusal := executePlan (convertPlan .nv12 s) s

/-- CONVERT.NV21 (R211). -/
def execConvertNv21 (s : State) : Host.Outcome State Fault Refusal := executePlan (convertPlan .nv21 s) s

/-- CONVERT.YUY2 (R212). -/
def execConvertYuy2 (s : State) : Host.Outcome State Fault Refusal := executePlan (convertPlan .yuy2 s) s

/-- CONVERT.UYVY (R213). -/
def execConvertUyvy (s : State) : Host.Outcome State Fault Refusal := executePlan (convertPlan .uyvy s) s

end Sys2Proof.Machine
end

