-- ==== Sys2Proof/Machine/Correction.lean ====
section
/-! DEFINITION. The image corrections CCM_APPLY (41_color_model.md R166–R169) and GAMMA_APPLY (R171–R174), each one line over
the shared plan. -/

namespace Sys2Proof.Machine

/-- CCM_APPLY.RGB565 (R167). -/
def execCcmApplyRgb565 (s : State) : Host.Outcome State Fault Refusal := executePlan (ccmPlan .rgb565 s) s

/-- CCM_APPLY.BGR888 (R168). -/
def execCcmApplyBgr888 (s : State) : Host.Outcome State Fault Refusal := executePlan (ccmPlan .bgr888 s) s

/-- CCM_APPLY.ARGB8888 (R169). -/
def execCcmApplyArgb8888 (s : State) : Host.Outcome State Fault Refusal := executePlan (ccmPlan .argb8888 s) s

/-- GAMMA_APPLY.RGB565 (R172). -/
def execGammaApplyRgb565 (s : State) : Host.Outcome State Fault Refusal := executePlan (gammaPlan .rgb565 s) s

/-- GAMMA_APPLY.BGR888 (R173). -/
def execGammaApplyBgr888 (s : State) : Host.Outcome State Fault Refusal := executePlan (gammaPlan .bgr888 s) s

/-- GAMMA_APPLY.ARGB8888 (R174). -/
def execGammaApplyArgb8888 (s : State) : Host.Outcome State Fault Refusal := executePlan (gammaPlan .argb8888 s) s

end Sys2Proof.Machine
end

