-- ==== Sys2Proof/Machine/Debayer.lean ====
section
/-! DEFINITION. The eight DEBAYER commands (42_demosaic.md R186–R194), each one line over the shared plan. -/

namespace Sys2Proof.Machine

/-- DEBAYER.RGGB.BGR888 (R187). -/
def execDebayerRggbBgr888 (s : State) : Host.Outcome State Fault Refusal :=
  executePlan (debayerPlan .rggb .bgr888 s) s

/-- DEBAYER.RGGB.RGB565 (R188). -/
def execDebayerRggbRgb565 (s : State) : Host.Outcome State Fault Refusal :=
  executePlan (debayerPlan .rggb .rgb565 s) s

/-- DEBAYER.GRBG.BGR888 (R189). -/
def execDebayerGrbgBgr888 (s : State) : Host.Outcome State Fault Refusal :=
  executePlan (debayerPlan .grbg .bgr888 s) s

/-- DEBAYER.GRBG.RGB565 (R190). -/
def execDebayerGrbgRgb565 (s : State) : Host.Outcome State Fault Refusal :=
  executePlan (debayerPlan .grbg .rgb565 s) s

/-- DEBAYER.GBRG.BGR888 (R191). -/
def execDebayerGbrgBgr888 (s : State) : Host.Outcome State Fault Refusal :=
  executePlan (debayerPlan .gbrg .bgr888 s) s

/-- DEBAYER.GBRG.RGB565 (R192). -/
def execDebayerGbrgRgb565 (s : State) : Host.Outcome State Fault Refusal :=
  executePlan (debayerPlan .gbrg .rgb565 s) s

/-- DEBAYER.BGGR.BGR888 (R193). -/
def execDebayerBggrBgr888 (s : State) : Host.Outcome State Fault Refusal :=
  executePlan (debayerPlan .bggr .bgr888 s) s

/-- DEBAYER.BGGR.RGB565 (R194). -/
def execDebayerBggrRgb565 (s : State) : Host.Outcome State Fault Refusal :=
  executePlan (debayerPlan .bggr .rgb565 s) s

end Sys2Proof.Machine
end

