-- ==== Sys2Proof/Machine/Single.lean ====
section
/-! DEFINITION. The commands that touch no image: NOP (40_command_cycle.md R127), the single-pixel commands (41_color_model.md
R160–R165) and GAMMA_BUILD (R170). None of them can fail once decoded (60_exceptions.md R273). -/

namespace Sys2Proof.Machine

/-- The three channels of a PIX_* word: r in [7:0], g in [15:8], b in [23:16] (R160). -/
def pixChannels (w : Word) : Rgb := ⟨w.extractLsb' 0 8, w.extractLsb' 8 8, w.extractLsb' 16 8⟩

/-- The top byte of a PIX_* word (R160). -/
def pixAlpha (w : Word) : Byte := w.extractLsb' 24 8

/-- The PIX_* word {a, b, g, r} (R160). -/
def pixWord (a : Byte) (p : Rgb) : Word := a ++ p.b ++ p.g ++ p.r

/-- Write PIX_OUT and complete (R160, 40_command_cycle.md R126). -/
def pixResult (v : Word) (s : State) : Host.Outcome State Fault Refusal := .next (complete { s with pixOut := v })

/-- NOP (40_command_cycle.md R127): completion only. -/
def execNop (s : State) : Host.Outcome State Fault Refusal := .next (complete s)

/-- PIX_YUV2RGB (R161): y, u, v in the three low bytes. -/
def execPixYuv2rgb (s : State) : Host.Outcome State Fault Refusal :=
  let p := pixChannels s.params.pixIn
  pixResult (pixWord 0 (yuvToRgb p.r p.g p.b)) s

/-- PIX_PACK565 (R162). -/
def execPixPack565 (s : State) : Host.Outcome State Fault Refusal :=
  pixResult ((packRgb565 (pixChannels s.params.pixIn)).setWidth 32) s

/-- PIX_UNPACK565 (R163). -/
def execPixUnpack565 (s : State) : Host.Outcome State Fault Refusal :=
  pixResult (pixWord 0 (unpackRgb565 (s.params.pixIn.extractLsb' 0 16))) s

/-- PIX_CCM (R164): the alpha byte is carried through. -/
def execPixCcm (s : State) : Host.Outcome State Fault Refusal :=
  pixResult (pixWord (pixAlpha s.params.pixIn) (ccmOrId s.params.ccmEn s.params.ccm (pixChannels s.params.pixIn))) s

/-- PIX_GAMMA (R165): EnsureLUT, then the lookup. -/
def execPixGamma (s : State) : Host.Outcome State Fault Refusal :=
  let s1 := ensureLut s
  pixResult (pixWord (pixAlpha s.params.pixIn) (gammaApply s1.lutRam (pixChannels s.params.pixIn))) s1

/-- GAMMA_BUILD (R170). -/
def execGammaBuild (s : State) : Host.Outcome State Fault Refusal := .next (complete (ensureLut s))

end Sys2Proof.Machine
end

