-- ==== Sys2Proof/Machine/Dispatch.lean ====
section
/-! DEFINITION. The dispatch: one arm per command, each one call of its meaning. -/

namespace Sys2Proof.Machine

/-- The command step of a decoded command (40_command_cycle.md R122): its checks 5–15, its effects, its completion. -/
def exec (i : Instr) (s : State) : Host.Outcome State Fault Refusal :=
  match i with
  | .nop => Sys2Proof.Machine.execNop s
  | .pixYuv2rgb => Sys2Proof.Machine.execPixYuv2rgb s
  | .pixPack565 => Sys2Proof.Machine.execPixPack565 s
  | .pixUnpack565 => Sys2Proof.Machine.execPixUnpack565 s
  | .pixCcm => Sys2Proof.Machine.execPixCcm s
  | .pixGamma => Sys2Proof.Machine.execPixGamma s
  | .ccmApplyRgb565 => Sys2Proof.Machine.execCcmApplyRgb565 s
  | .ccmApplyBgr888 => Sys2Proof.Machine.execCcmApplyBgr888 s
  | .ccmApplyArgb8888 => Sys2Proof.Machine.execCcmApplyArgb8888 s
  | .gammaBuild => Sys2Proof.Machine.execGammaBuild s
  | .gammaApplyRgb565 => Sys2Proof.Machine.execGammaApplyRgb565 s
  | .gammaApplyBgr888 => Sys2Proof.Machine.execGammaApplyBgr888 s
  | .gammaApplyArgb8888 => Sys2Proof.Machine.execGammaApplyArgb8888 s
  | .debayerRggbBgr888 => Sys2Proof.Machine.execDebayerRggbBgr888 s
  | .debayerRggbRgb565 => Sys2Proof.Machine.execDebayerRggbRgb565 s
  | .debayerGrbgBgr888 => Sys2Proof.Machine.execDebayerGrbgBgr888 s
  | .debayerGrbgRgb565 => Sys2Proof.Machine.execDebayerGrbgRgb565 s
  | .debayerGbrgBgr888 => Sys2Proof.Machine.execDebayerGbrgBgr888 s
  | .debayerGbrgRgb565 => Sys2Proof.Machine.execDebayerGbrgRgb565 s
  | .debayerBggrBgr888 => Sys2Proof.Machine.execDebayerBggrBgr888 s
  | .debayerBggrRgb565 => Sys2Proof.Machine.execDebayerBggrRgb565 s
  | .convertBgr888 => Sys2Proof.Machine.execConvertBgr888 s
  | .convertI420 => Sys2Proof.Machine.execConvertI420 s
  | .convertYv12 => Sys2Proof.Machine.execConvertYv12 s
  | .convertI422 => Sys2Proof.Machine.execConvertI422 s
  | .convertI444 => Sys2Proof.Machine.execConvertI444 s
  | .convertI400 => Sys2Proof.Machine.execConvertI400 s
  | .convertNv12 => Sys2Proof.Machine.execConvertNv12 s
  | .convertNv21 => Sys2Proof.Machine.execConvertNv21 s
  | .convertYuy2 => Sys2Proof.Machine.execConvertYuy2 s
  | .convertUyvy => Sys2Proof.Machine.execConvertUyvy s
  | .present => Sys2Proof.Machine.execPresent s
  | .beginFrame => Sys2Proof.Machine.execBeginFrame s
  | .drawRgb565 => Sys2Proof.Machine.execDrawRgb565 s
  | .drawBgr888 => Sys2Proof.Machine.execDrawBgr888 s
  | .drawI420 => Sys2Proof.Machine.execDrawI420 s
  | .drawYv12 => Sys2Proof.Machine.execDrawYv12 s
  | .drawI422 => Sys2Proof.Machine.execDrawI422 s
  | .drawI444 => Sys2Proof.Machine.execDrawI444 s
  | .drawI400 => Sys2Proof.Machine.execDrawI400 s
  | .drawNv12 => Sys2Proof.Machine.execDrawNv12 s
  | .drawNv21 => Sys2Proof.Machine.execDrawNv21 s
  | .drawYuy2 => Sys2Proof.Machine.execDrawYuy2 s
  | .drawUyvy => Sys2Proof.Machine.execDrawUyvy s
  | .endFrame => Sys2Proof.Machine.execEndFrame s

end Sys2Proof.Machine
end

