-- ==== Sys2Proof/Machine/Stop.lean ====
section
/-! DEFINITION. What ends a command from outside (40_command_cycle.md R125): the display's error notification (60_exceptions.md
R277, 44_framebuffer.md R239) and a reset (70_reset_and_hazards.md R300–R302). -/

namespace Sys2Proof.Machine

/-- The plan of a command that has memory effects; `none` for the others. It is what a stop in phase EXEC may have
performed in part (60_exceptions.md R275) and what the host must stay off (20_memory.md R93). -/
def commandPlan (i : Instr) (s : State) : Option Plan :=
  match i with
  | .nop => none
  | .pixYuv2rgb => none
  | .pixPack565 => none
  | .pixUnpack565 => none
  | .pixCcm => none
  | .pixGamma => none
  | .ccmApplyRgb565 => some (ccmPlan .rgb565 s)
  | .ccmApplyBgr888 => some (ccmPlan .bgr888 s)
  | .ccmApplyArgb8888 => some (ccmPlan .argb8888 s)
  | .gammaBuild => none
  | .gammaApplyRgb565 => some (gammaPlan .rgb565 s)
  | .gammaApplyBgr888 => some (gammaPlan .bgr888 s)
  | .gammaApplyArgb8888 => some (gammaPlan .argb8888 s)
  | .debayerRggbBgr888 => some (debayerPlan .rggb .bgr888 s)
  | .debayerRggbRgb565 => some (debayerPlan .rggb .rgb565 s)
  | .debayerGrbgBgr888 => some (debayerPlan .grbg .bgr888 s)
  | .debayerGrbgRgb565 => some (debayerPlan .grbg .rgb565 s)
  | .debayerGbrgBgr888 => some (debayerPlan .gbrg .bgr888 s)
  | .debayerGbrgRgb565 => some (debayerPlan .gbrg .rgb565 s)
  | .debayerBggrBgr888 => some (debayerPlan .bggr .bgr888 s)
  | .debayerBggrRgb565 => some (debayerPlan .bggr .rgb565 s)
  | .convertBgr888 => some (convertPlan .bgr888 s)
  | .convertI420 => some (convertPlan .i420 s)
  | .convertYv12 => some (convertPlan .yv12 s)
  | .convertI422 => some (convertPlan .i422 s)
  | .convertI444 => some (convertPlan .i444 s)
  | .convertI400 => some (convertPlan .i400 s)
  | .convertNv12 => some (convertPlan .nv12 s)
  | .convertNv21 => some (convertPlan .nv21 s)
  | .convertYuy2 => some (convertPlan .yuy2 s)
  | .convertUyvy => some (convertPlan .uyvy s)
  | .present => none
  | .beginFrame => none
  | .drawRgb565 => some (drawPlan .rgb565 s)
  | .drawBgr888 => some (drawPlan .bgr888 s)
  | .drawI420 => some (drawPlan .i420 s)
  | .drawYv12 => some (drawPlan .yv12 s)
  | .drawI422 => some (drawPlan .i422 s)
  | .drawI444 => some (drawPlan .i444 s)
  | .drawI400 => some (drawPlan .i400 s)
  | .drawNv12 => some (drawPlan .nv12 s)
  | .drawNv21 => some (drawPlan .nv21 s)
  | .drawYuy2 => some (drawPlan .yuy2 s)
  | .drawUyvy => some (drawPlan .uyvy s)
  | .endFrame => none

/-- The plan of the command in progress, when it is one that passes its checks and touches memory. -/
def State.runningPlan (s : State) : Option Plan :=
  if s.phase = .exec then
    match decode s.curCmd with
    | .error _ => none
    | .ok i =>
      match commandPlan i s with
      | none => none
      | some p => if p.failure = none then some p else none
  else none

/-- The command in progress stops at an unknown point (R275, R277, R302): before its effects began, when nothing has changed,
or within them, when EnsureLUT is done (41_color_model.md R171) and an unknown part of its stores is performed (logs 9, 12). -/
def State.stopPlan (s : State) (p : Plan) : State :=
  if Config.effectsBegun s.freeCount then (if p.usesLut then ensureLut s else s).stopStores p.stores
  else { s with freeCount := s.freeCount + 1 }

/-- The command in progress stops: an unknown part of its stores has been performed (R275, R302; U4). A command whose
planes overlap has no defined stores and is refused (20_memory.md R94). A command without memory accesses has no point at
which it could stop half done (60_exceptions.md R294; log 12). -/
def stopCommand (s : State) : Host.Outcome State Fault Refusal :=
  match s.runningPlan with
  | none => .next s
  | some p => if p.overlaps then .refused .sourceDestinationOverlap else .next (s.stopPlan p)

/-- Continue after a stop. -/
def afterStop (o : Host.Outcome State Fault Refusal) (f : State → State) : Host.Outcome State Fault Refusal :=
  match o with
  | .next s => .next (f s)
  | .fault r => .fault r
  | .refused r => .refused r

/-- DISP_ERR (60_exceptions.md R277, R278; 44_framebuffer.md R239): check 17 in every phase but FAILED; in EXEC the running
command stops first. -/
def displayError (s : State) : Host.Outcome State Fault Refusal :=
  afterStop (stopCommand s) (raiseError .hardwareFault 17 0 0)

/-- A reset, hardware or soft, in any phase (70_reset_and_hazards.md R300–R302). In EXEC the command stops; in WAIT_VSYNC
it is open whether the display has switched (U11; log 17). -/
def resetMachine (s : State) : Host.Outcome State Fault Refusal :=
  match s.phase with
  | .waitVsync =>
    .next
      { s.resetEngine with
        scanBase := if Config.switchedAtReset s.freeCount then s.dispAddr else s.scanBase
        freeCount := s.freeCount + 1 }
  | .idle | .exec | .failed => afterStop (stopCommand s) State.resetEngine

end Sys2Proof.Machine
end

