-- ==== Sys2Proof/Machine/Registers.lean ====
section
/-! DEFINITION. The register block (10_state.md R21, R22): the map, the access types, reads and writes with their side effects
(20_memory.md R87), acceptance and rejection of commands (40_command_cycle.md R120, R121). -/

namespace Sys2Proof.Machine

/-- The registers of the map (R21). -/
inductive Reg where
  /-- CTRL. -/
  | ctrl
  /-- STATUS. -/
  | status
  /-- IRQ_STATUS. -/
  | irqStatus
  /-- IRQ_EN. -/
  | irqEn
  /-- CMD. -/
  | cmd
  /-- ERR_INFO. -/
  | errInfo
  /-- ERR_ADDR. -/
  | errAddr
  /-- PIX_IN. -/
  | pixIn
  /-- PIX_OUT. -/
  | pixOut
  /-- SRC_SIZE. -/
  | srcSize
  /-- SRC_BASE0. -/
  | srcBase0
  /-- SRC_PITCH0. -/
  | srcPitch0
  /-- SRC_BASE1. -/
  | srcBase1
  /-- SRC_PITCH1. -/
  | srcPitch1
  /-- SRC_BASE2. -/
  | srcBase2
  /-- SRC_PITCH2. -/
  | srcPitch2
  /-- DST_SIZE. -/
  | dstSize
  /-- DST_BASE. -/
  | dstBase
  /-- DST_PITCH. -/
  | dstPitch
  /-- DST_POS. -/
  | dstPos
  /-- CCM_CTRL. -/
  | ccmCtrl
  /-- CCM_C00. -/
  | ccmC00
  /-- CCM_C01. -/
  | ccmC01
  /-- CCM_C02. -/
  | ccmC02
  /-- CCM_C10. -/
  | ccmC10
  /-- CCM_C11. -/
  | ccmC11
  /-- CCM_C12. -/
  | ccmC12
  /-- CCM_C20. -/
  | ccmC20
  /-- CCM_C21. -/
  | ccmC21
  /-- CCM_C22. -/
  | ccmC22
  /-- FB_CFG. -/
  | fbCfg
  /-- FB_SIZE. -/
  | fbSize
  /-- FB_PITCH. -/
  | fbPitch
  /-- FB_ACTIVE. -/
  | fbActive
  /-- FB_BASE0. -/
  | fbBase0
  /-- FB_BASE1. -/
  | fbBase1
  /-- FB_BASE2. -/
  | fbBase2
  /-- FB_BASE3. -/
  | fbBase3
  /-- FB_ACTIVE_BASE. -/
  | fbActiveBase
  /-- FB_INACTIVE_BASE. -/
  | fbInactiveBase
  /-- GAMMA_LUT[k], k < 64 (R49). -/
  | gammaLut (k : Nat)
deriving DecidableEq, Repr

/-- The access types of R21. -/
inductive RegAccess where
  | rw | ro | wo | w1c
deriving DecidableEq, Repr

/-- The register at an offset of the block (R21); `none` at an offset that is not in the map. -/
def regAt (off : Nat) : Option Reg :=
  match off with
  | 0x000 => some .ctrl
  | 0x004 => some .status
  | 0x008 => some .irqStatus
  | 0x00C => some .irqEn
  | 0x010 => some .cmd
  | 0x014 => some .errInfo
  | 0x018 => some .errAddr
  | 0x020 => some .pixIn
  | 0x024 => some .pixOut
  | 0x040 => some .srcSize
  | 0x044 => some .srcBase0
  | 0x048 => some .srcPitch0
  | 0x04C => some .srcBase1
  | 0x050 => some .srcPitch1
  | 0x054 => some .srcBase2
  | 0x058 => some .srcPitch2
  | 0x060 => some .dstSize
  | 0x064 => some .dstBase
  | 0x068 => some .dstPitch
  | 0x06C => some .dstPos
  | 0x080 => some .ccmCtrl
  | 0x084 => some .ccmC00
  | 0x088 => some .ccmC01
  | 0x08C => some .ccmC02
  | 0x090 => some .ccmC10
  | 0x094 => some .ccmC11
  | 0x098 => some .ccmC12
  | 0x09C => some .ccmC20
  | 0x0A0 => some .ccmC21
  | 0x0A4 => some .ccmC22
  | 0x0C0 => some .fbCfg
  | 0x0C4 => some .fbSize
  | 0x0C8 => some .fbPitch
  | 0x0CC => some .fbActive
  | 0x0D0 => some .fbBase0
  | 0x0D4 => some .fbBase1
  | 0x0D8 => some .fbBase2
  | 0x0DC => some .fbBase3
  | 0x0E0 => some .fbActiveBase
  | 0x0E4 => some .fbInactiveBase
  | _ => if 0x100 ≤ off ∧ off < 0x200 ∧ off % 4 = 0 then some (.gammaLut ((off - 0x100) / 4)) else none

/-- The access type of a register (R21). -/
def Reg.access : Reg → RegAccess
  | .ctrl => .rw
  | .status => .ro
  | .irqStatus => .w1c
  | .irqEn => .rw
  | .cmd => .wo
  | .errInfo => .ro
  | .errAddr => .ro
  | .pixIn => .rw
  | .pixOut => .ro
  | .srcSize => .rw
  | .srcBase0 => .rw
  | .srcPitch0 => .rw
  | .srcBase1 => .rw
  | .srcPitch1 => .rw
  | .srcBase2 => .rw
  | .srcPitch2 => .rw
  | .dstSize => .rw
  | .dstBase => .rw
  | .dstPitch => .rw
  | .dstPos => .rw
  | .ccmCtrl => .rw
  | .ccmC00 => .rw
  | .ccmC01 => .rw
  | .ccmC02 => .rw
  | .ccmC10 => .rw
  | .ccmC11 => .rw
  | .ccmC12 => .rw
  | .ccmC20 => .rw
  | .ccmC21 => .rw
  | .ccmC22 => .rw
  | .fbCfg => .rw
  | .fbSize => .rw
  | .fbPitch => .rw
  | .fbActive => .ro
  | .fbBase0 => .rw
  | .fbBase1 => .rw
  | .fbBase2 => .rw
  | .fbBase3 => .rw
  | .fbActiveBase => .ro
  | .fbInactiveBase => .ro
  | .gammaLut _ => .ro

/-- The register is marked P in R21. -/
def Reg.isParameter : Reg → Bool
  | .pixIn | .srcSize | .srcBase0 | .srcPitch0 | .srcBase1 | .srcPitch1 | .srcBase2 | .srcPitch2 | .dstSize
  | .dstBase | .dstPitch | .dstPos | .ccmCtrl | .ccmC00 | .ccmC01 | .ccmC02 | .ccmC10 | .ccmC11 | .ccmC12
  | .ccmC20 | .ccmC21 | .ccmC22 | .fbCfg | .fbSize | .fbPitch | .fbBase0 | .fbBase1 | .fbBase2 | .fbBase3 => true
  | .ctrl | .status | .irqStatus | .irqEn | .cmd | .errInfo | .errAddr | .pixOut | .fbActive | .fbActiveBase
  | .fbInactiveBase | .gammaLut _ => false

/-- The word at GAMMA_LUT[k]: entries 4k to 4k + 3, little-endian, while LUT_VALID; else 0 (R49). -/
def gammaWindow (s : State) (k : Nat) : Word :=
  if s.lutValid then
    s.lutRam.getD (4 * k + 3) 0 ++ s.lutRam.getD (4 * k + 2) 0 ++ s.lutRam.getD (4 * k + 1) 0 ++ s.lutRam.getD (4 * k) 0
  else 0

/-- What a host read of a register returns (R21, R22): WO registers and reserved fields read 0. -/
def regRead (r : Reg) (s : State) : Word :=
  match r with
  | .ctrl => 0
  | .status => statusWord s
  | .irqStatus => s.irqStatus.setWidth 32
  | .irqEn => s.irqEn.setWidth 32
  | .cmd => 0
  | .errInfo => errInfoWord s
  | .errAddr => s.errAddr
  | .pixIn => s.params.pixIn
  | .pixOut => s.pixOut
  | .srcSize => s.params.srcSize
  | .srcBase0 => s.params.srcBase0
  | .srcPitch0 => s.params.srcPitch0
  | .srcBase1 => s.params.srcBase1
  | .srcPitch1 => s.params.srcPitch1
  | .srcBase2 => s.params.srcBase2
  | .srcPitch2 => s.params.srcPitch2
  | .dstSize => s.params.dstSize
  | .dstBase => s.params.dstBase
  | .dstPitch => s.params.dstPitch
  | .dstPos => s.params.dstPos
  | .ccmCtrl => (flagBit s.params.ccmEn).setWidth 32
  | .ccmC00 => s.params.ccm.c00.setWidth 32
  | .ccmC01 => s.params.ccm.c01.setWidth 32
  | .ccmC02 => s.params.ccm.c02.setWidth 32
  | .ccmC10 => s.params.ccm.c10.setWidth 32
  | .ccmC11 => s.params.ccm.c11.setWidth 32
  | .ccmC12 => s.params.ccm.c12.setWidth 32
  | .ccmC20 => s.params.ccm.c20.setWidth 32
  | .ccmC21 => s.params.ccm.c21.setWidth 32
  | .ccmC22 => s.params.ccm.c22.setWidth 32
  | .fbCfg => s.params.fbN.setWidth 32
  | .fbSize => s.params.fbSize
  | .fbPitch => s.params.fbPitch
  | .fbActive => fbActiveWord s
  | .fbBase0 => s.params.fbBase0
  | .fbBase1 => s.params.fbBase1
  | .fbBase2 => s.params.fbBase2
  | .fbBase3 => s.params.fbBase3
  | .fbActiveBase => s.params.fbBase s.activeIdx
  | .fbInactiveBase => s.params.fbBase s.inactiveIdx
  | .gammaLut k => gammaWindow s k

/-- A host read at an offset: 0 where the map has no register (R22). -/
def readOffset (off : Nat) (s : State) : Word :=
  match regAt off with
  | some r => regRead r s
  | none => 0

/-- FB_CFG.N is write-any-read-legal (R44): the legal values. -/
def legalSurfaceCount (n : BitVec 3) : Bool := n == 2 || n == 3 || n == 4

/-- A write to FB_CFG (R44). -/
def State.writeFbCfg (s : State) (v : Word) : State :=
  if legalSurfaceCount (v.extractLsb' 0 3) then
    { s with params := { s.params with fbN := v.extractLsb' 0 3 }, activeIdx := 0 }
  else s

/-- A write to a parameter register other than FB_CFG, reserved bits dropped (R22, R42, R43). Registers that are no
parameter leave the parameters as they are. -/
def Params.write (p : Params) (r : Reg) (v : Word) : Params :=
  match r with
  | .pixIn => { p with pixIn := v }
  | .srcSize => { p with srcSize := v }
  | .srcBase0 => { p with srcBase0 := v }
  | .srcPitch0 => { p with srcPitch0 := v }
  | .srcBase1 => { p with srcBase1 := v }
  | .srcPitch1 => { p with srcPitch1 := v }
  | .srcBase2 => { p with srcBase2 := v }
  | .srcPitch2 => { p with srcPitch2 := v }
  | .dstSize => { p with dstSize := v }
  | .dstBase => { p with dstBase := v }
  | .dstPitch => { p with dstPitch := v }
  | .dstPos => { p with dstPos := v }
  | .ccmCtrl => { p with ccmEn := v.getLsbD 0 }
  | .ccmC00 => { p with ccm := { p.ccm with c00 := v.extractLsb' 0 16 } }
  | .ccmC01 => { p with ccm := { p.ccm with c01 := v.extractLsb' 0 16 } }
  | .ccmC02 => { p with ccm := { p.ccm with c02 := v.extractLsb' 0 16 } }
  | .ccmC10 => { p with ccm := { p.ccm with c10 := v.extractLsb' 0 16 } }
  | .ccmC11 => { p with ccm := { p.ccm with c11 := v.extractLsb' 0 16 } }
  | .ccmC12 => { p with ccm := { p.ccm with c12 := v.extractLsb' 0 16 } }
  | .ccmC20 => { p with ccm := { p.ccm with c20 := v.extractLsb' 0 16 } }
  | .ccmC21 => { p with ccm := { p.ccm with c21 := v.extractLsb' 0 16 } }
  | .ccmC22 => { p with ccm := { p.ccm with c22 := v.extractLsb' 0 16 } }
  | .fbSize => { p with fbSize := v }
  | .fbPitch => { p with fbPitch := v }
  | .fbBase0 => { p with fbBase0 := v }
  | .fbBase1 => { p with fbBase1 := v }
  | .fbBase2 => { p with fbBase2 := v }
  | .fbBase3 => { p with fbBase3 := v }
  | .ctrl | .status | .irqStatus | .irqEn | .cmd | .errInfo | .errAddr | .pixOut | .fbCfg | .fbActive
  | .fbActiveBase | .fbInactiveBase | .gammaLut _ => p

/-- A host write to CMD: acceptance in IDLE (40_command_cycle.md R120), rejection in every other phase (R121). -/
def State.submit (s : State) (w : Word) : State := if s.phase = .idle then s.accept w else s.raiseIrq irqRejected

/-- A host write to a register (R22, R25, R33, R34, R35). -/
def regWrite (r : Reg) (v : Word) (s : State) : Host.Outcome State Fault Refusal :=
  if r.access = .ro then .next s
  else if r.isParameter && s.busy then .next (s.raiseIrq irqRejected)
  else
    match r with
    | .ctrl => if v.getLsbD 0 then resetMachine s else .next s
    | .irqStatus => .next { s with irqStatus := s.irqStatus &&& ~~~(v.extractLsb' 0 3) }
    | .irqEn => .next { s with irqEn := v.extractLsb' 0 3 }
    | .cmd => .next (s.submit v)
    | .fbCfg => .next (s.writeFbCfg v)
    | _ => .next { s with params := s.params.write r v }

/-- A host write at an offset: ignored where the map has no register (R22). -/
def writeOffset (off : Nat) (v : Word) (s : State) : Host.Outcome State Fault Refusal :=
  match regAt off with
  | some r => regWrite r v s
  | none => .next s

end Sys2Proof.Machine
end

