-- ==== Sys2Proof/Machine/Events.lean ====
section
/-! DEFINITION. One event of the alphabet of 60_exceptions.md R294, performed; and which of several events of one cycle is
performed first (R286). -/

namespace Sys2Proof.Machine

/-- Bytes of a host access. -/
def AccessSize.bytes : AccessSize → Nat
  | .byte => 1
  | .half => 2
  | .word => 4

/-- A host access meets the register block at ENGINE_BASE (10_state.md R20). -/
def State.hitsBlock (s : State) (addr : Word) (size : AccessSize) : Bool :=
  decide (s.engineBase.toNat < addr.toNat + size.bytes ∧ addr.toNat < s.engineBase.toNat + Config.blockBytes)

/-- The block offset of a host access that R86 allows: 32 bits wide, at a 4-byte-aligned offset. -/
def State.blockOffset (s : State) (addr : Word) (size : AccessSize) : Option Nat :=
  if size = .word ∧ s.engineBase.toNat ≤ addr.toNat ∧ (addr.toNat - s.engineBase.toNat) % 4 = 0 then
    some (addr.toNat - s.engineBase.toNat)
  else none

/-- The bytes [a, a + n) share an address with a plane's range (20_memory.md R83, R93). -/
def Plane.touchedBy (p : Plane) (a n : Nat) : Bool := decide (a ≤ p.last ∧ p.base < a + n)

/-- A host load that races with the running command: it reads the destination range (R93). -/
def State.loadRaces (s : State) (a n : Nat) : Bool :=
  match s.runningPlan with
  | none => false
  | some p => p.dest.touchedBy a n

/-- A host store that races with the running command: it writes a source range or the destination range (R93). -/
def State.storeRaces (s : State) (a n : Nat) : Bool :=
  match s.runningPlan with
  | none => false
  | some p => p.dest.touchedBy a n || p.sources.any (fun k => k.touchedBy a n)

/-- A host store (20_memory.md R70, R72, R86, R93). -/
def hostStore (addr : Word) (size : AccessSize) (v : Word) (s : State) : Host.Outcome State Fault Refusal :=
  if s.hitsBlock addr size then
    match s.blockOffset addr size with
    | some off => writeOffset off v s
    | none => .refused .narrowRegisterAccess
  else if Config.addressSpace < addr.toNat + size.bytes then .fault .beyondAddressSpace
  else if s.storeRaces addr.toNat size.bytes then .refused .hostRace
  else .next { s with mem := s.mem.writeLE addr.toNat size.bytes v.toNat }

/-- A host load (20_memory.md R70, R72, R86, R93): no side effect (R87) but the value returned to the host. -/
def hostLoad (addr : Word) (size : AccessSize) (s : State) : Host.Outcome State Fault Refusal :=
  if s.hitsBlock addr size then
    match s.blockOffset addr size with
    | some off => .next { s with hostData := readOffset off s }
    | none => .refused .narrowRegisterAccess
  else if Config.addressSpace < addr.toNat + size.bytes then .fault .beyondAddressSpace
  else if s.loadRaces addr.toNat size.bytes then .refused .hostRace
  else .next { s with hostData := BitVec.ofNat 32 (s.mem.readLE addr.toNat size.bytes) }

/-- PRESENT's completion (44_framebuffer.md R237), with the display's switch in the same step (R234 (b)). -/
def State.finishPresent (s : State) : State :=
  { s with
    scanBase := s.dispAddr
    activeIdx := s.presentTarget
    dispReq := false
    dispAddr := 0
    irqStatus := s.irqStatus ||| irqDone
    phase := .idle }

/-- VSYNC_ACK: completes PRESENT in WAIT_VSYNC (R237), is ignored elsewhere (R238; log 6). -/
def vsyncAck (s : State) : State := if s.phase = .waitVsync then s.finishPresent else s

/-- The error code of checks 7 and 8 (60_exceptions.md R272, R282, R283). -/
def formatErrorCode (op : Op) : ErrCode :=
  match op with
  | .ccmApply | .gammaApply => .invalidFormat
  | _ => .conversionFailed

/-- An accepted word that is no legal command: checks 1–4 (30_encoding.md R104), or check 7 or 8, which DRAW makes after
check 5 (60_exceptions.md R273; log 20). -/
def illegalWord (e : DecodeError) (s : State) : Failure :=
  match e with
  | .reservedBits => ⟨.illegalCmd, 1, 0⟩
  | .undefinedOp => ⟨.illegalCmd, 2, 0⟩
  | .illegalSource => ⟨.illegalCmd, 3, 0⟩
  | .illegalDestination => ⟨.illegalCmd, 4, 0⟩
  | .unsupportedSource op =>
    if op = .draw ∧ s.inFrame = false then bracketMissing else ⟨formatErrorCode op, 7, 0⟩
  | .unsupportedDestination op =>
    if op = .draw ∧ s.inFrame = false then bracketMissing else ⟨formatErrorCode op, 8, 3⟩

/-- The engine's command step (40_command_cycle.md R122): in EXEC, decode CUR_CMD and execute it; in the other phases the
engine has nothing to do. -/
def runCommand (s : State) : Host.Outcome State Fault Refusal :=
  if s.phase = .exec then
    match decode s.curCmd with
    | .ok i => exec i s
    | .error e => .next (raiseFailure (illegalWord e s) s)
  else .next s

/-- Perform one event (60_exceptions.md R294). -/
def perform (e : Event) (s : State) : Host.Outcome State Fault Refusal :=
  match e with
  | .command => runCommand s
  | .hostStore addr size v => hostStore addr size v s
  | .hostLoad addr size => hostLoad addr size s
  | .vsyncAck => .next (vsyncAck s)
  | .dispErr => displayError s
  | .hardwareReset => resetMachine s
  | .displayConfigure base => .next { s with scanBase := base }

/-- The register a host store writes, where R86 allows the store. -/
def State.storeTarget (s : State) (addr : Word) (size : AccessSize) : Option Reg :=
  match s.blockOffset addr size with
  | some off => if off < Config.blockBytes then regAt off else none
  | none => none

/-- The place of an event in the order of a cycle, lower first (R286): a reset; the clearing store to IRQ_STATUS, so that a
set in the same cycle wins (10_state.md R33); DISP_ERR; the command step with its bus error; VSYNC_ACK; the rest (log 16). -/
def Event.rank (s : State) : Event → Nat
  | .hardwareReset => 0
  | .hostStore addr size v =>
    match s.storeTarget addr size with
    | some .ctrl => if v.getLsbD 0 then 0 else 5
    | some .irqStatus => 1
    | _ => 5
  | .dispErr => 2
  | .command => 3
  | .vsyncAck => 4
  | .hostLoad _ _ => 5
  | .displayConfigure _ => 5

/-- The first event of a cycle by rank, and the events that stay. -/
def firstEvent (s : State) : List Event → Option (Event × List Event)
  | [] => none
  | e :: rest =>
    match firstEvent s rest with
    | none => some (e, [])
    | some (m, others) => if e.rank s ≤ m.rank s then some (e, rest) else some (m, e :: others)

/-- The inputs after the first event of a cycle: a reset discards everything else in its cycle (R286). -/
def laterInputs (s : State) (e : Event) (others : List Event) (rest : List (List Event)) : List (List Event) :=
  if e.rank s = 0 ∨ others = [] then rest else others :: rest

end Sys2Proof.Machine
end

