-- ==== Sys2Proof/Machine/Step.lean ====
section
/-! DEFINITION. One step of the modelled system (60_exceptions.md R294): the next event from outside, or the engine's own
step when none is left. -/

namespace Sys2Proof.Machine

/-- One step: the first event of the next cycle (R286); with no cycle left, the engine's command step. A cycle without events
passes. -/
def step (s : State) : Host.Outcome State Fault Refusal :=
  match s.inputs with
  | [] => runCommand s
  | cycle :: rest =>
    match firstEvent s cycle with
    | none => .next { s with inputs := rest }
    | some (e, others) => perform e { s with inputs := laterInputs s e others rest }

/-- `s` with the command word of a table row accepted and its command step next. There is no program counter
(10_state.md R23): a command comes from a host write to CMD, which this stands for (log 2). -/
def State.withFetchWord (s : State) (nbits w : Nat) : State :=
  { s with
    curCmd := BitVec.ofNat 32 (w % 2 ^ nbits)
    phase := .exec
    inputs := [.command] :: s.inputs }

end Sys2Proof.Machine
end

