-- ==== Sys2Proof/Machine/HostActions.lean ====
section
/-! DEFINITION. The host's actions and the pseudo-instructions of the spec's host program notation (30_encoding.md R109,
R110), each as the events it stands for. -/

namespace Sys2Proof.Machine

/-- The block offset of a register (10_state.md R21, R43, R47, R49). -/
def Reg.offset : Reg → Nat
  | .ctrl => 0x000
  | .status => 0x004
  | .irqStatus => 0x008
  | .irqEn => 0x00C
  | .cmd => 0x010
  | .errInfo => 0x014
  | .errAddr => 0x018
  | .pixIn => 0x020
  | .pixOut => 0x024
  | .srcSize => 0x040
  | .srcBase0 => 0x044
  | .srcPitch0 => 0x048
  | .srcBase1 => 0x04C
  | .srcPitch1 => 0x050
  | .srcBase2 => 0x054
  | .srcPitch2 => 0x058
  | .dstSize => 0x060
  | .dstBase => 0x064
  | .dstPitch => 0x068
  | .dstPos => 0x06C
  | .ccmCtrl => 0x080
  | .ccmC00 => 0x084
  | .ccmC01 => 0x088
  | .ccmC02 => 0x08C
  | .ccmC10 => 0x090
  | .ccmC11 => 0x094
  | .ccmC12 => 0x098
  | .ccmC20 => 0x09C
  | .ccmC21 => 0x0A0
  | .ccmC22 => 0x0A4
  | .fbCfg => 0x0C0
  | .fbSize => 0x0C4
  | .fbPitch => 0x0C8
  | .fbActive => 0x0CC
  | .fbBase0 => 0x0D0
  | .fbBase1 => 0x0D4
  | .fbBase2 => 0x0D8
  | .fbBase3 => 0x0DC
  | .fbActiveBase => 0x0E0
  | .fbInactiveBase => 0x0E4
  | .gammaLut k => 0x100 + 4 * k

/-- One host action (R109). -/
inductive HostAction where
  /-- `wr NAME, imm32`. -/
  | wr (r : Reg) (v : Word)
  /-- `rd NAME`. -/
  | rd (r : Reg)
  /-- `cmd MNEMONIC`: a store to CMD of the command's word. -/
  | cmd (i : Instr)
  /-- `poll NAME, mask, value`: `rd NAME` until `(NAME & mask) == value`. -/
  | poll (r : Reg) (mask value : Word)
  /-- `mem.b`, `mem.h`, `mem.w`. -/
  | mem (size : AccessSize) (addr v : Word)
deriving DecidableEq, Repr

/-- The bus address of a register (R20). -/
def State.regAddress (s : State) (r : Reg) : Word := s.engineBase + BitVec.ofNat 32 r.offset

/-- The event of one host action; for `poll`, the event that is repeated. -/
def HostAction.event (s : State) : HostAction → Event
  | .wr r v => .hostStore (s.regAddress r) .word v
  | .rd r => .hostLoad (s.regAddress r) .word
  | .cmd i => .hostStore (s.regAddress .cmd) .word (encode i)
  | .poll r _ _ => .hostLoad (s.regAddress r) .word
  | .mem size addr v => .hostStore addr size v

/-- A `poll` ends: the value just read has the polled bits. -/
def pollEnds (mask value : Word) (s : State) : Bool := s.hostData &&& mask == value

/-- The pseudo-instructions of R110. -/
inductive Pseudo where
  | waitIdle
  | run (i : Instr)
  | ack
  | setSrc (w h : Half) (b0 p0 : Word)
  | setSrc3 (w h : Half) (b0 p0 b1 p1 b2 p2 : Word)
  | setSrc2 (w h : Half) (b0 p0 b1 p1 : Word)
  | setDst (w h : Half) (base pitch : Word)
  | setPos (x y : Half)
  | setCcm (c00 c01 c02 c10 c11 c12 c20 c21 c22 : Word)
  | clrCcm
  | setFb (n : Word) (w h : Half) (pitch b0 b1 : Word) (more : Option (Word × Option Word))
  | softReset
  | pix (i : Instr) (v : Word)
deriving DecidableEq, Repr

/-- `poll STATUS, 0x1, 0x0` (R110, `wait_idle`). -/
def waitIdle : HostAction := .poll .status 1 0

/-- The nine coefficient stores in offset order, each of the operand's low 16 bits, then CCM_CTRL (R110, `set_ccm`). -/
def setCcmActions (c00 c01 c02 c10 c11 c12 c20 c21 c22 : Word) : List HostAction :=
  [.wr .ccmC00 (c00 &&& 0xFFFF), .wr .ccmC01 (c01 &&& 0xFFFF), .wr .ccmC02 (c02 &&& 0xFFFF),
    .wr .ccmC10 (c10 &&& 0xFFFF), .wr .ccmC11 (c11 &&& 0xFFFF), .wr .ccmC12 (c12 &&& 0xFFFF),
    .wr .ccmC20 (c20 &&& 0xFFFF), .wr .ccmC21 (c21 &&& 0xFFFF), .wr .ccmC22 (c22 &&& 0xFFFF),
    .wr .ccmCtrl 1]

/-- The expansion of a pseudo-instruction (R110). -/
def Pseudo.expand : Pseudo → List HostAction
  | .waitIdle => [Machine.waitIdle]
  | .run i => [.cmd i, Machine.waitIdle]
  | .ack => [.wr .irqStatus 7]
  | .setSrc w h b0 p0 => [.wr .srcSize (h ++ w), .wr .srcBase0 b0, .wr .srcPitch0 p0]
  | .setSrc3 w h b0 p0 b1 p1 b2 p2 =>
    [.wr .srcSize (h ++ w), .wr .srcBase0 b0, .wr .srcPitch0 p0, .wr .srcBase1 b1, .wr .srcPitch1 p1,
      .wr .srcBase2 b2, .wr .srcPitch2 p2]
  | .setSrc2 w h b0 p0 b1 p1 =>
    [.wr .srcSize (h ++ w), .wr .srcBase0 b0, .wr .srcPitch0 p0, .wr .srcBase1 b1, .wr .srcPitch1 p1]
  | .setDst w h base pitch => [.wr .dstSize (h ++ w), .wr .dstBase base, .wr .dstPitch pitch]
  | .setPos x y => [.wr .dstPos (y ++ x)]
  | .setCcm c00 c01 c02 c10 c11 c12 c20 c21 c22 => setCcmActions c00 c01 c02 c10 c11 c12 c20 c21 c22
  | .clrCcm => [.wr .ccmCtrl 0]
  | .setFb n w h pitch b0 b1 more =>
    [.wr .fbCfg n, .wr .fbSize (h ++ w), .wr .fbPitch pitch, .wr .fbBase0 b0, .wr .fbBase1 b1]
    ++ (match more with
      | none => []
      | some (b2, none) => [.wr .fbBase2 b2]
      | some (b2, some b3) => [.wr .fbBase2 b2, .wr .fbBase3 b3])
  | .softReset => [.wr .ctrl 1]
  | .pix i v => [.wr .pixIn v, .cmd i, Machine.waitIdle, .rd .pixOut]

end Sys2Proof.Machine
end

