-- ==== Sys2Proof/Safety.lean ====
section
/-! DEFINITION. What counts as a safe state and a clean end of a run, and the words the statements are written in. -/

namespace Sys2Proof.Machine

/-- An action of the host program: a load, a store, or the configuration of the display driver (30_encoding.md R109,
70_reset_and_hazards.md R306). The other events are the display's, the platform's and the engine's own (60_exceptions.md
R294). -/
def Event.isHostAction : Event → Bool
  | .hostStore _ _ _ => true
  | .hostLoad _ _ => true
  | .displayConfigure _ => true
  | .command => false
  | .vsyncAck => false
  | .dispErr => false
  | .hardwareReset => false

/-- The host program has executed its last action (40_command_cycle.md R129 (a)); events of other agents may still come. -/
def State.hostDone (s : State) : Bool := s.inputs.all fun cycle => cycle.all fun e => !e.isHostAction

/-- A run has ended (R129): the host program is done and the phase is IDLE or FAILED. -/
def State.runEnded (s : State) : Bool := s.hostDone && !s.busy

/-- A run has ended cleanly (R129). -/
def State.endedCleanly (s : State) : Bool := s.hostDone && s.phase == .idle

/-- A run has ended in a fault (R129). -/
def State.endedInFault (s : State) : Bool := s.hostDone && s.phase == .failed

/-- The codes that the engine raises (60_exceptions.md R271; R280: 6 and 7 never). -/
def ErrCode.raised (c : ErrCode) : Bool :=
  match c with
  | .illegalCmd | .sequenceError | .invalidFormat | .conversionFailed | .hardwareFault => true
  | .none | .allocationFailure | .captureError => false

/-- The invariant of the machine: what the spec says holds in every state that a run reaches. -/
structure State.Inv (s : State) : Prop where
  /-- Memory is in its canonical form. -/
  memWf : s.mem.wf = true
  /-- FB_CFG.N is 2, 3 or 4 (10_state.md R44). -/
  surfaceCount : legalSurfaceCount s.params.fbN = true
  /-- ACTIVE_IDX names one of the N surfaces (R44, R46). -/
  activeInRange : s.activeIdx.toNat < s.params.fbN.toNat
  /-- The LUT RAM has 256 entries (R51). -/
  lutSize : s.lutRam.length = Config.lutSize
  /-- While LUT_VALID, the LUT RAM holds the table (41_color_model.md R153). -/
  lutTable : s.lutValid = true → s.lutRam = gammaTable
  /-- Outside FAILED no error is held (R32, 40_command_cycle.md R126). -/
  noErrorHeld : s.phase ≠ .failed →
    s.errCode = .none ∧ s.errOp = 0 ∧ s.errCheck = 0 ∧ s.errPlane = 0 ∧ s.errAddr = 0
  /-- In FAILED one of the raised codes is held (R32; 60_exceptions.md R271, R280). -/
  errorHeld : s.phase = .failed → s.errCode.raised = true
  /-- ERR_ADDR is not 0 only after a bus error, check 16 (R37). -/
  addressOfBusError : s.errAddr ≠ 0 → s.errCheck = 16
  /-- DISP_REQ is asserted exactly while the phase is WAIT_VSYNC (44_framebuffer.md R233). -/
  requestLine : s.dispReq = true ↔ s.phase = .waitVsync
  /-- DISP_ADDR is FB_BASE[PRESENT_TARGET] while DISP_REQ = 1, and 0 otherwise (R233). -/
  requestAddress : s.dispAddr = if s.phase = .waitVsync then s.params.fbBase s.presentTarget else 0
  /-- While PRESENT waits, its target is the inactive surface, no bracket is open, and CUR_CMD is PRESENT (R235, R52). -/
  waiting : s.phase = .waitVsync → s.presentTarget = s.inactiveIdx ∧ s.inFrame = false ∧ s.curCmd = encode .present

/-- The transitions of 10_state.md R24: PRESENT's step and the others; a phase may also stay. -/
def Phase.mayBecome : Phase → Phase → Bool
  | .idle, .exec => true
  | .exec, .idle => true
  | .exec, .waitVsync => true
  | .waitVsync, .idle => true
  | _, .failed => true
  | .failed, .idle => true
  | p, q => p == q

/-- The event that a step performs, if it performs one (60_exceptions.md R286, R294). -/
def State.nextEvent (s : State) : Option Event :=
  match s.inputs with
  | [] => some .command
  | cycle :: _ => (firstEvent s cycle).map Prod.fst

/-- The inputs that are left after a step. -/
def State.inputsAfter (s : State) : List (List Event) :=
  match s.inputs with
  | [] => []
  | cycle :: rest =>
    match firstEvent s cycle with
    | none => rest
    | some (e, others) => laterInputs s e others rest

/-- The event is a reset: the platform's, or a store of 1 to CTRL.SOFT_RESET (10_state.md R25). -/
def Event.isReset (s : State) (e : Event) : Prop :=
  e = .hardwareReset ∨ ∃ addr v, e = .hostStore addr .word v ∧ s.hitsBlock addr .word = true ∧
    s.storeTarget addr .word = some .ctrl ∧ v.getLsbD 0 = true

/-- No engine access in a plane's range gets a bus error (60_exceptions.md R276). -/
def Plane.quiet (p : Plane) (s : State) : Prop := ∀ a, p.base ≤ a → a ≤ p.last → s.busErrorAt a = false

/-- A plane that passes checks 13 to 15 and gets no bus error (60_exceptions.md R272, R276). -/
def Plane.sound (p : Plane) (s : State) : Prop :=
  0 < p.rows ∧ 0 < p.rowBytes ∧ p.rowBytes ≤ p.pitch ∧ p.last < Config.addressSpace ∧ p.quiet s

/-- The state after an image command that completes with memory `m`: BUSY is cleared and DONE set (40_command_cycle.md
R126); the model's counter of free values advances (log 8). -/
def State.doneWith (s : State) (m : Memory) : State :=
  { s with mem := m, phase := .idle, irqStatus := s.irqStatus ||| 1, freeCount := s.freeCount + 1 }

/-- CONVERT or DRAW of format `f` onto `dst` passes checks 9–15, meets no bus error, and its planes do not meet the
destination (43_format_converter.md R201, 45_compositor.md R253, 20_memory.md R94). -/
structure StreamReady (f : StreamFormat) (s : State) (dst : Surface) : Prop where
  sourceSize : 0 < s.params.srcW ∧ 0 < s.params.srcH
  evenSize : f.oddSize s.params.srcW s.params.srcH = false
  sources : ∀ k ∈ f.planes s.params, k.sound s ∧ k.meets (dst.plane 2) = false
  target : (dst.plane 2).sound s
  memory : s.mem.wf = true

/-- A same-size image command with one source plane `k` and `bpp`-byte destination pixels passes its checks and meets no
bus error (41_color_model.md R166, 42_demosaic.md R186). -/
structure SameSizeReady (k : Plane) (bpp : Nat) (s : State) : Prop where
  sourceSize : 0 < s.params.srcW ∧ 0 < s.params.srcH
  sameSize : s.params.dstW = s.params.srcW ∧ s.params.dstH = s.params.srcH
  source : k.sound s
  target : (s.params.dstSurface.plane bpp).sound s
  memory : s.mem.wf = true

/-- The source plane does not meet the destination, or CCM_APPLY and GAMMA_APPLY run exactly in place (20_memory.md R94). -/
def DisjointOrInPlace (k : Plane) (bpp : Nat) (s : State) : Prop :=
  k.meets (s.params.dstSurface.plane bpp) = false ∨
    (s.params.srcBase0 = s.params.dstBase ∧ s.params.srcPitch0 = s.params.dstPitch)

/-- The clip condition (43_format_converter.md R200): source pixel (col, i) lands inside the destination. -/
def Params.lands (p : Params) (dst : Surface) (col i : Nat) : Prop :=
  col < p.srcW ∧ i < p.srcH ∧ p.dstX + col < dst.width ∧ p.dstY + i < dst.height

/-- Memory `m` differs from that of `s` exactly by the RGB565 words `value col i` of the pixels that land in `dst`, each at
its place, and by nothing else (43_format_converter.md R200, R202; 45_compositor.md R251). -/
def StreamWritten (s : State) (dst : Surface) (value : Nat → Nat → Half) (m : Memory) : Prop :=
  m.wf = true ∧
  (∀ col i, s.params.lands dst col i →
    dst.pixel565 m (s.params.dstX + col) (s.params.dstY + i) = (value col i).toNat) ∧
  (∀ a, (∀ col i, s.params.lands dst col i →
      a ≠ dst.addr 2 (s.params.dstX + col) (s.params.dstY + i) ∧
      a ≠ dst.addr 2 (s.params.dstX + col) (s.params.dstY + i) + 1) →
    m.read a = s.mem.read a)

/-- Memory `m` differs from that of `s` exactly by the bytes `value col i` of each pixel of a SRC_W × SRC_H image at DST_BASE
with DST_PITCH and `bpp` bytes per pixel (41_color_model.md R166, 42_demosaic.md R186). -/
def ImageWritten (s : State) (bpp : Nat) (value : Nat → Nat → List Byte) (m : Memory) : Prop :=
  m.wf = true ∧
  (∀ col i, col < s.params.srcW → i < s.params.srcH →
    rawBytes m (s.params.dstBase.toNat + i * s.params.dstPitch.toNat + bpp * col) bpp = value col i) ∧
  (∀ a, (∀ col i k, col < s.params.srcW → i < s.params.srcH → k < bpp →
      a ≠ s.params.dstBase.toNat + i * s.params.dstPitch.toNat + bpp * col + k) →
    m.read a = s.mem.read a)

end Sys2Proof.Machine
end

