-- ==== Sys2Proof/Certificates/Slice0/Obligations.lean ====
section
/-! DEFINITION. The statements for the provers, from the numbered rules of spec/. -/

open Sys2Proof Sys2Proof.Machine

/-- R103: a few command words, one a family, decode to their commands. -/
def Obligations.DecodeSampleWords : Prop :=
  decode 0x00000000 = .ok .nop ∧ decode 0x00000004 = .ok .pixCcm ∧ decode 0x00020210 = .ok .ccmApplyArgb8888 ∧
  decode 0x00010112 = .ok .gammaApplyBgr888 ∧ decode 0x00012120 = .ok .debayerGrbgBgr888 ∧
  decode 0x00001930 = .ok .convertNv21 ∧ decode 0x00000040 = .ok .present ∧ decode 0x00001D51 = .ok .drawUyvy ∧
  decode 0x00000052 = .ok .endFrame

/-- R103, R105: every well-formed command decodes from its own word, and no other word decodes to it; a word decodes to a
command exactly when its fields are well-formed. -/
def Obligations.DecodeAndEncodeAgree : Prop :=
  (∀ i : Instr, i.wellFormed = true → decode (encode i) = .ok i) ∧
  (∀ (w : Word) (i : Instr), decode w = .ok i → w = encode i) ∧
  (∀ w : Word, (CmdFields.ofWord w).wellFormed = true ↔ ∃ i, decode w = .ok i)

/-- R104: the decoder stops at the first failing step, for every one of the 2^32 words. A word that passes the four steps is a
command, or its SFMT is no source of its OP, or else its DFMT is no destination of its OP (R273); the answer names the OP,
which `IllegalWordEntersFailed` turns into the error code and the check (R272, R282, R283). -/
def Obligations.DecoderClassifiesEveryWord : Prop :=
  ∀ w : Word,
    let op := w.toNat % 256
    let sfmt := w.toNat / 256 % 256
    let dfmt := w.toNat / 65536 % 256
    let plain := [0x00, 0x01, 0x02, 0x03, 0x04, 0x05, 0x11, 0x40, 0x50, 0x52]
    let formats := [0x00, 0x01, 0x02, 0x10, 0x11, 0x12, 0x13, 0x14, 0x18, 0x19, 0x1C, 0x1D, 0x20, 0x21, 0x22, 0x23]
    let convertible := [0x01, 0x10, 0x11, 0x12, 0x13, 0x14, 0x18, 0x19, 0x1C, 0x1D]
    let byFormats (o : Op) (sources destinations : List Nat) : Prop :=
      if sfmt ∉ formats then decode w = .error .illegalSource
      else if dfmt ∉ formats then decode w = .error .illegalDestination
      else if sfmt ∉ sources then decode w = .error (.unsupportedSource o)
      else if dfmt ∉ destinations then decode w = .error (.unsupportedDestination o)
      else ∃ i, decode w = .ok i
    if w.toNat / 16777216 ≠ 0 then decode w = .error .reservedBits
    else if op ∈ plain then
      if sfmt ≠ 0 then decode w = .error .illegalSource
      else if dfmt ≠ 0 then decode w = .error .illegalDestination
      else ∃ i, decode w = .ok i
    else if op = 0x10 then byFormats .ccmApply [0x00, 0x01, 0x02] [sfmt]
    else if op = 0x12 then byFormats .gammaApply [0x00, 0x01, 0x02] [sfmt]
    else if op = 0x20 then byFormats .debayer [0x20, 0x21, 0x22, 0x23] [0x00, 0x01]
    else if op = 0x30 then byFormats .convert convertible [0x00]
    else if op = 0x51 then byFormats .draw (0x00 :: convertible) [0x00]
    else decode w = .error .undefinedOp

/-- R122: in EXEC the command step executes the command that CUR_CMD decodes to. The inputs that remain are the model's own
(log 2). -/
def Obligations.StepRunsDecodedCommand : Prop :=
  ∀ (s : State) (i : Instr), s.phase = .exec → decode s.curCmd = .ok i → i.wellFormed = true →
    s.nextEvent = some .command → step s = exec i { s with inputs := s.inputsAfter }

/-- R104, R272 (checks 1–4, 7, 8), R273 (DRAW's check 5 first), R274: an accepted word that is no legal command enters FAILED
with the check of its first failing step, and changes nothing else. -/
def Obligations.IllegalWordEntersFailed : Prop :=
  ∀ (s : State) (e : DecodeError) (code : ErrCode) (check : Byte) (plane : BitVec 2),
    s.phase = .exec → s.nextEvent = some .command → decode s.curCmd = .error e →
    (e = .reservedBits ∧ (code, check, plane) = (.illegalCmd, 1, 0) ∨
      e = .undefinedOp ∧ (code, check, plane) = (.illegalCmd, 2, 0) ∨
      e = .illegalSource ∧ (code, check, plane) = (.illegalCmd, 3, 0) ∨
      e = .illegalDestination ∧ (code, check, plane) = (.illegalCmd, 4, 0) ∨
      (e = .unsupportedSource .draw ∨ e = .unsupportedDestination .draw) ∧ s.inFrame = false ∧
        (code, check, plane) = (.sequenceError, 5, 0) ∨
      (e = .unsupportedSource .ccmApply ∨ e = .unsupportedSource .gammaApply) ∧
        (code, check, plane) = (.invalidFormat, 7, 0) ∨
      (e = .unsupportedDestination .ccmApply ∨ e = .unsupportedDestination .gammaApply) ∧
        (code, check, plane) = (.invalidFormat, 8, 3) ∨
      (e = .unsupportedSource .debayer ∨ e = .unsupportedSource .convert ∨
          e = .unsupportedSource .draw ∧ s.inFrame = true) ∧ (code, check, plane) = (.conversionFailed, 7, 0) ∨
      (e = .unsupportedDestination .debayer ∨ e = .unsupportedDestination .convert ∨
          e = .unsupportedDestination .draw ∧ s.inFrame = true) ∧ (code, check, plane) = (.conversionFailed, 8, 3)) →
    step s = .next
      { s with
        inputs := s.inputsAfter
        phase := .failed
        errCode := code
        errOp := BitVec.ofNat 8 s.curCmd.toNat
        errCheck := check
        errPlane := plane
        errAddr := 0
        dispReq := false
        dispAddr := 0
        irqStatus := s.irqStatus ||| 2 }

/-- R55: what the spec's reset table gives: every register of the map reads 0, but FB_CFG, which reads 2, and FB_ACTIVE, whose
INACTIVE_IDX is (0 + 1) mod 2; the phase is IDLE, CUR_CMD and PRESENT_TARGET are 0, DISP_REQ and IRQ are deasserted. -/
def Obligations.ResetValues : Prop :=
  (∀ r : Reg, regRead r State.reset = if r = .fbCfg then 2 else if r = .fbActive then 0x100 else 0) ∧
  State.reset.phase = .idle ∧ State.reset.lutValid = false ∧ State.reset.curCmd = 0 ∧
  State.reset.presentTarget = 0 ∧ State.reset.activeIdx = 0 ∧ State.reset.dispReq = false ∧
  State.reset.dispAddr = 0 ∧ State.reset.irq = false

/-- The invariant holds right after reset. It includes the canonical form of memory and the size of the LUT RAM, which are
the model's (logs 3, 4). -/
def Obligations.InvariantHoldsAtReset : Prop := State.reset.Inv

/-- Every step keeps the invariant: FB_CFG.N legal and ACTIVE_IDX below it (R44, R46), the LUT RAM holds the table while
LUT_VALID (R153), errors are held in FAILED only (R32), ERR_ADDR is nonzero for check 16 only (R37), DISP_REQ and DISP_ADDR
follow WAIT_VSYNC (R233), PRESENT waits outside a bracket (R235), memory stays canonical (the model's form). -/
def Obligations.StepKeepsInvariant : Prop := ∀ s t : State, s.Inv → step s = .next t → t.Inv

/-- R24, R27: no phase transition but those of the table, each by its own cause: a command is accepted by a store to CMD, the
command step completes, requests or fails, VSYNC_ACK completes PRESENT, DISP_ERR fails, a reset goes to IDLE. So BUSY is set
by an acceptance alone. -/
def Obligations.PhaseTransitions : Prop :=
  ∀ s t : State, step s = .next t →
    s.phase.mayBecome t.phase = true ∧
    (t.phase ≠ s.phase → ∃ e, s.nextEvent = some e ∧
      (s.phase = .idle ∧ t.phase = .exec ∧
          (∃ addr, e = .hostStore addr .word t.curCmd ∧ s.hitsBlock addr .word = true ∧
            s.storeTarget addr .word = some .cmd) ∨
        s.phase = .exec ∧ t.phase = .idle ∧ e = .command ∧ t.irqStatus.getLsbD 0 = true ∨
        s.phase = .exec ∧ t.phase = .waitVsync ∧ e = .command ∧ decode s.curCmd = .ok .present ∧ t.dispReq = true ∨
        s.phase = .waitVsync ∧ t.phase = .idle ∧ e = .vsyncAck ∧ t.irqStatus.getLsbD 0 = true ∨
        t.phase = .failed ∧ (s.phase = .exec ∧ e = .command ∨ e = .dispErr ∧ t.errCheck = 17) ∧ t.errCode ≠ .none ∧
          t.irqStatus.getLsbD 1 = true ∨
        t.phase = .idle ∧ e.isReset s))

/-- R28, R279: FAILED is left only by a reset, and to IDLE. -/
def Obligations.FailedLeftOnlyByReset : Prop :=
  ∀ s t : State, s.phase = .failed → step s = .next t → t.phase ≠ .failed →
    t.phase = .idle ∧ t.errCode = .none ∧ ∃ e, s.nextEvent = some e ∧ e.isReset s

/-- R46: ACTIVE_IDX changes by PRESENT's completion, by a legal write to FB_CFG, or by reset, and in no other way. -/
def Obligations.ActiveIndexChangesThreeWays : Prop :=
  ∀ s t : State, step s = .next t → t.activeIdx ≠ s.activeIdx →
    ∃ e, s.nextEvent = some e ∧
      (e = .vsyncAck ∧ s.phase = .waitVsync ∧ t.activeIdx = s.presentTarget ∨
        (∃ addr v, e = .hostStore addr .word v ∧ s.storeTarget addr .word = some .fbCfg ∧
          v.toNat % 8 ∈ [2, 3, 4] ∧ s.busy = false ∧ t.activeIdx = 0) ∨
        e.isReset s ∧ t.activeIdx = 0)

/-- R22, R54: while BUSY the parameter registers keep their values, whatever the step does, but for a reset. -/
def Obligations.ParametersFrozenWhileBusy : Prop :=
  ∀ s t : State, s.busy = true → step s = .next t → t.params ≠ s.params → ∃ e, s.nextEvent = some e ∧ e.isReset s

/-- R29, R153: once LUT_VALID is 1, only a reset clears it, and until then the LUT RAM never changes. -/
def Obligations.GammaTableImmutableUntilReset : Prop :=
  ∀ s t : State, s.lutValid = true → step s = .next t →
    t.lutValid = true ∧ t.lutRam = s.lutRam ∨ ∃ e, s.nextEvent = some e ∧ e.isReset s

/-- R300–R303: a reset, the platform's or a store of 1 to CTRL.SOFT_RESET, gives every engine register its reset value; the LUT
RAM's contents are left open (R55, U12; what the model puts there is log 4). Memory changes only where it stops a command;
SCAN_BASE only where it stops a PRESENT, and then at most to DISP_ADDR; both resets are the same. Outside EXEC it always
completes (in EXEC: `ResetDuringExecOldOrNew`). The platform's parameters and the model's own fields stay: logs 2, 5, 7, 8. -/
def Obligations.ResetRestoresEngine : Prop :=
  ∀ s : State,
    (∀ u, perform .hardwareReset s = .next u →
      u = { State.reset with
            lutRam := u.lutRam, mem := u.mem, scanBase := u.scanBase, engineBase := s.engineBase,
            busErrors := s.busErrors, inputs := s.inputs, hostData := s.hostData, freeCount := u.freeCount } ∧
      (s.phase ≠ .exec → u.mem = s.mem) ∧ (s.phase ≠ .waitVsync → u.scanBase = s.scanBase) ∧
      (u.scanBase = s.scanBase ∨ u.scanBase = s.dispAddr)) ∧
    (s.phase ≠ .exec → ∃ u, perform .hardwareReset s = .next u) ∧
    (∀ v : Word, v.toNat % 2 = 1 → writeOffset 0x000 v s = perform .hardwareReset s)

/-- R301, R302: a reset in EXEC completes. A command that passes its checks and touches memory leaves every byte outside its
destination range alone, and every byte inside it at its old value or at the command's new one; every other command leaves
memory alone. A command whose planes overlap has no defined stores (R94), and the reset that hits it is refused (log 14). -/
def Obligations.ResetDuringExecOldOrNew : Prop :=
  ∀ s : State, s.phase = .exec →
    ((∀ i p, decode s.curCmd = .ok i → commandPlan i s = some p → p.failure ≠ none) →
      ∃ u, perform .hardwareReset s = .next u ∧ u.phase = .idle ∧ u.mem = s.mem) ∧
    ∀ (i : Instr) (p : Plan), decode s.curCmd = .ok i → commandPlan i s = some p → p.failure = none →
      (p.overlaps = true → perform .hardwareReset s = .refused .sourceDestinationOverlap) ∧
      (p.overlaps = false → s.mem.wf = true →
        ∃ u, perform .hardwareReset s = .next u ∧ u.phase = .idle ∧
          (∀ a, a < p.dest.base ∨ p.dest.last < a → u.mem.read a = s.mem.read a) ∧
          (∀ a, u.mem.read a = s.mem.read a ∨ u.mem.read a = (applyStores p.stores s.mem).read a))

/-- R22: a write to a parameter register while BUSY is ignored and sets REJECTED. The offsets are those that R21 marks P. -/
def Obligations.ParameterWriteWhileBusyRejected : Prop :=
  ∀ (s : State) (off : Nat) (v : Word), s.busy = true →
    off ∈ [0x020, 0x040, 0x044, 0x048, 0x04C, 0x050, 0x054, 0x058, 0x060, 0x064, 0x068, 0x06C, 0x080, 0x084, 0x088,
      0x08C, 0x090, 0x094, 0x098, 0x09C, 0x0A0, 0x0A4, 0x0C0, 0x0C4, 0x0C8, 0x0D0, 0x0D4, 0x0D8, 0x0DC] →
    writeOffset off v s = .next { s with irqStatus := s.irqStatus ||| 4 }

/-- R22, R25: a write to a read-only register, to an offset that is not in the map, or to CTRL with bit 0 = 0 changes nothing at
all; a read of any offset that is not in the map returns 0. -/
def Obligations.OtherWritesIgnored : Prop :=
  ∀ (s : State) (off : Nat) (v : Word),
    let writable := [0x000, 0x008, 0x00C, 0x010, 0x020, 0x040, 0x044, 0x048, 0x04C, 0x050, 0x054, 0x058, 0x060, 0x064,
      0x068, 0x06C, 0x080, 0x084, 0x088, 0x08C, 0x090, 0x094, 0x098, 0x09C, 0x0A0, 0x0A4, 0x0C0, 0x0C4, 0x0C8, 0x0D0,
      0x0D4, 0x0D8, 0x0DC]
    let readOnly := [0x004, 0x014, 0x018, 0x024, 0x0CC, 0x0E0, 0x0E4]
    let window := 0x100 ≤ off ∧ off ≤ 0x1FC ∧ off % 4 = 0
    (off ∉ writable → writeOffset off v s = .next s) ∧
    (v.toNat % 2 = 0 → writeOffset 0x000 v s = .next s) ∧
    (off ∉ writable → off ∉ readOnly → ¬ window → readOffset off s = 0)

/-- R22, D60: outside BUSY a parameter register without reserved bits reads back what was written; the other registers keep
what they read, but the two views of FB_BASE at 0x0E0 and 0x0E4; nothing but the parameters changes. A write to SRC_SIZE,
DST_SIZE or DST_POS gives the image commands its low half as the width or x and its high half as the height or y (R39, R40,
R41). -/
def Obligations.ParameterReadBack : Prop :=
  ∀ (s : State) (off : Nat) (v : Word), s.busy = false →
    off ∈ [0x020, 0x040, 0x044, 0x048, 0x04C, 0x050, 0x054, 0x058, 0x060, 0x064, 0x068, 0x06C, 0x0C4, 0x0C8, 0x0D0,
      0x0D4, 0x0D8, 0x0DC] →
    ∃ t, writeOffset off v s = .next t ∧ t = { s with params := t.params } ∧ readOffset off t = v ∧
      (∀ other, other ≠ off → other ∉ [0x0E0, 0x0E4] → readOffset other t = readOffset other s) ∧
      (off = 0x040 → t.params.srcW = v.toNat % 65536 ∧ t.params.srcH = v.toNat / 65536) ∧
      (off = 0x060 → t.params.dstW = v.toNat % 65536 ∧ t.params.dstH = v.toNat / 65536) ∧
      (off = 0x06C → t.params.dstX = v.toNat % 65536 ∧ t.params.dstY = v.toNat / 65536)

/-- R42, R43: CCM_CTRL keeps bit 0 and a coefficient register bits [15:0] of what is written outside BUSY; the reserved bits
read 0; every other register keeps what it reads, and nothing but the parameters changes. -/
def Obligations.CoefficientReadBack : Prop :=
  ∀ (s : State) (v : Word), s.busy = false →
    let keeps (off value : Nat) : Prop :=
      ∃ t, writeOffset off v s = .next t ∧ t = { s with params := t.params } ∧ (readOffset off t).toNat = value ∧
        ∀ other, other ≠ off → readOffset other t = readOffset other s
    keeps 0x080 (v.toNat % 2) ∧ ∀ j k : Nat, j < 3 → k < 3 → keeps (0x084 + 4 * (3 * j + k)) (v.toNat % 65536)

/-- R44: FB_CFG reads N, 2 after reset and always a legal value (under the invariant); a legal write stores it and sets
ACTIVE_IDX to 0, any other leaves both; bits [31:3] read 0 and are dropped. -/
def Obligations.SurfaceCountWriteAnyReadLegal : Prop :=
  readOffset 0x0C0 State.reset = 2 ∧
  ∀ (s : State) (v : Word),
    (readOffset 0x0C0 s).toNat = s.params.fbN.toNat ∧
    (s.Inv → (readOffset 0x0C0 s).toNat ∈ [2, 3, 4]) ∧
    (s.busy = false →
      writeOffset 0x0C0 v s =
        if v.toNat % 8 = 2 ∨ v.toNat % 8 = 3 ∨ v.toNat % 8 = 4 then
          .next { s with params := { s.params with fbN := BitVec.ofNat 3 v.toNat }, activeIdx := 0 }
        else .next s)

/-- R33, R34, R285: writing 1 to an IRQ_STATUS bit clears it and writing 0 leaves it; IRQ_EN keeps bits [2:0] of what is written,
in every phase; nothing else changes; reserved bits read 0. IRQ is the level (IRQ_STATUS & IRQ_EN & 0x7) ≠ 0 of what the two
registers read. -/
def Obligations.IrqStatusWriteOneToClear : Prop :=
  ∀ (s : State) (v : Word),
    (readOffset 0x008 s).toNat < 8 ∧
    (s.irq = true ↔ ((readOffset 0x008 s).toNat &&& (readOffset 0x00C s).toNat &&& 0x7) ≠ 0) ∧
    (∃ t, writeOffset 0x008 v s = .next t ∧ t = { s with irqStatus := t.irqStatus } ∧
      ∀ k, k < 3 → t.irqStatus.getLsbD k = (s.irqStatus.getLsbD k && !v.getLsbD k)) ∧
    ∃ t, writeOffset 0x00C v s = .next t ∧ t = { s with irqEn := t.irqEn } ∧
      (readOffset 0x00C t).toNat = v.toNat % 8

/-- R33, R286: a store that clears IRQ_STATUS in the same cycle as an event that sets one of its bits leaves the bit set: DONE by
VSYNC_ACK, DONE or ERROR by a command step (the step after the store), ERROR by DISP_ERR. How a cycle is performed, one event
a step, is the model's reading (log 16). -/
def Obligations.SetWinsOverClear : Prop :=
  ∀ (s : State) (addr v : Word) (rest : List (List Event)),
    s.hitsBlock addr .word = true → s.storeTarget addr .word = some .irqStatus →
    let clear : Event := .hostStore addr .word v
    let together (e : Event) : Prop := s.inputs = [e, clear] :: rest ∨ s.inputs = [clear, e] :: rest
    (s.phase = .waitVsync → together .vsyncAck →
      ∃ t u, step s = .next t ∧ step t = .next u ∧ u.inputs = rest ∧ u.phase = .idle ∧ u.irqStatus.getLsbD 0 = true ∧
        u.activeIdx = s.presentTarget) ∧
    (s.phase = .idle ∨ s.phase = .waitVsync → together .dispErr →
      ∃ t u, step s = .next t ∧ step t = .next u ∧ u.inputs = rest ∧ u.phase = .failed ∧ u.irqStatus.getLsbD 1 = true) ∧
    (s.phase = .exec → together .command →
      ∃ t, step s = .next t ∧ t.inputs = [.command] :: rest ∧
        (∀ u, step t = .next u →
          (u.phase = .idle → u.irqStatus.getLsbD 0 = true) ∧ (u.phase = .failed → u.irqStatus.getLsbD 1 = true)) ∧
        (s.curCmd = encode .nop → ∃ u, step t = .next u ∧ u.phase = .idle))

/-- R286: a DISP_ERR in the same cycle as VSYNC_ACK abandons the PRESENT: ACTIVE_IDX is not advanced. -/
def Obligations.DisplayErrorBeatsAcknowledge : Prop :=
  ∀ (s : State) (rest : List (List Event)), s.phase = .waitVsync →
    (s.inputs = [.vsyncAck, .dispErr] :: rest ∨ s.inputs = [.dispErr, .vsyncAck] :: rest) →
    ∃ t u, step s = .next t ∧ step t = .next u ∧ u.inputs = rest ∧ u.phase = .failed ∧ u.activeIdx = s.activeIdx ∧
      u.errCode = .hardwareFault ∧ u.errCheck = 17 ∧ u.dispReq = false

/-- R120: a write to CMD in IDLE is accepted; nothing but CUR_CMD and the phase changes. -/
def Obligations.CommandAcceptance : Prop :=
  ∀ (s : State) (w : Word), s.phase = .idle →
    writeOffset 0x010 w s = .next { s with curCmd := w, phase := .exec }

/-- R121: a write to CMD in EXEC, WAIT_VSYNC or FAILED sets REJECTED and nothing else changes. -/
def Obligations.CommandRejection : Prop :=
  ∀ (s : State) (w : Word), s.phase ∈ [Phase.exec, .waitVsync, .failed] →
    writeOffset 0x010 w s = .next { s with irqStatus := s.irqStatus ||| 4 }

/-- R21, R24–R26, R35–R38: what the host reads of the status, error and result registers: the STATUS word, bit by bit, from the
phase, the flags and the code's number (R271); ERR_INFO {0, PLANE, CHECK, OP}; ERR_ADDR; PIX_OUT; CTRL and CMD read 0. -/
def Obligations.StatusWord : Prop :=
  ∀ s : State,
    (readOffset 0x004 s).toNat =
      (if s.phase = .exec ∨ s.phase = .waitVsync then 1 else 0) + (if s.phase = .failed then 2 else 0)
      + (if s.lutValid then 4 else 0) + (if s.inFrame then 8 else 0) + (if s.phase = .waitVsync then 16 else 0)
      + 256 * (match s.errCode with
          | .none => 0
          | .illegalCmd => 1
          | .sequenceError => 2
          | .invalidFormat => 3
          | .conversionFailed => 4
          | .hardwareFault => 5
          | .allocationFailure => 6
          | .captureError => 7) ∧
    (readOffset 0x014 s).toNat = s.errOp.toNat + 256 * s.errCheck.toNat + 65536 * s.errPlane.toNat ∧
    readOffset 0x018 s = s.errAddr ∧ readOffset 0x024 s = s.pixOut ∧ readOffset 0x000 s = 0 ∧ readOffset 0x010 s = 0

/-- R46, R48, R231: FB_ACTIVE holds both indices, the two base registers read FB_BASE of each, and the two surfaces have these
bases and the shared FB_PITCH, FB_W and FB_H (R45). -/
def Obligations.SurfaceViews : Prop :=
  ∀ s : State, s.Inv →
    let base (k : Nat) : Word := [s.params.fbBase0, s.params.fbBase1, s.params.fbBase2, s.params.fbBase3].getD k 0
    let next := (s.activeIdx.toNat + 1) % s.params.fbN.toNat
    let surface (k : Nat) : Surface :=
      ⟨(base k).toNat, s.params.fbPitch.toNat, s.params.fbSize.toNat % 65536, s.params.fbSize.toNat / 65536⟩
    (readOffset 0x0CC s).toNat = s.activeIdx.toNat + 256 * next ∧
    readOffset 0x0E0 s = base s.activeIdx.toNat ∧ readOffset 0x0E4 s = base next ∧
    s.activeSurface = surface s.activeIdx.toNat ∧ s.inactiveSurface = surface next

/-- R49: the GAMMA_LUT window reads four entries of the LUT RAM, the lowest in the low byte, while LUT_VALID, and 0 before; under
the invariant those entries are the table's; the host cannot write the window. -/
def Obligations.GammaWindow : Prop :=
  ∀ (s : State) (k : Nat) (v : Word), k < 64 →
    let off := 0x100 + 4 * k
    let word (lut : List Byte) : Nat :=
      (lut.getD (4 * k) 0).toNat + 256 * (lut.getD (4 * k + 1) 0).toNat + 65536 * (lut.getD (4 * k + 2) 0).toNat
        + 16777216 * (lut.getD (4 * k + 3) 0).toNat
    writeOffset off v s = .next s ∧
    (s.lutValid = false → readOffset off s = 0) ∧
    (s.lutValid = true → (readOffset off s).toNat = word s.lutRam ∧ (s.Inv → (readOffset off s).toNat = word gammaTable))

/-- R87: a host read of a register changes nothing; the value returned is the model's own field (log 7). -/
def Obligations.RegisterReadsHaveNoSideEffect : Prop :=
  ∀ (s : State) (addr : Word), s.hitsBlock addr .word = true → (addr.toNat - s.engineBase.toNat) % 4 = 0 →
    s.engineBase.toNat ≤ addr.toNat →
    perform (.hostLoad addr .word) s = .next { s with hostData := readOffset (addr.toNat - s.engineBase.toNat) s }

/-- R86: a byte or halfword access to the register block, or a misaligned one, is refused. -/
def Obligations.NarrowRegisterAccessRefused : Prop :=
  ∀ (s : State) (addr v : Word) (size : AccessSize), s.hitsBlock addr size = true →
    (size = .byte ∨ size = .half ∨ addr.toNat < s.engineBase.toNat ∨ (addr.toNat - s.engineBase.toNat) % 4 ≠ 0) →
    perform (.hostStore addr size v) s = .refused .narrowRegisterAccess ∧
    perform (.hostLoad addr size) s = .refused .narrowRegisterAccess

/-- R70, R72, R73, R93: a host store of 1, 2 or 4 bytes stores the value's low bytes, least significant first, leaves every other
byte and everything else, and a host load of 1, 2 or 4 bytes returns the bytes in the same order, zero-extended; in EXEC too,
where the access does not race with the command. That only a command that passes its checks has ranges to race with is the
model's reading (log 15); that host accesses have any alignment and meet no bus error is the model's choice (log 18); the value
loaded stands in the model's own field (log 7). -/
def Obligations.HostMemoryLittleEndian : Prop :=
  ∀ (s : State) (addr v : Word) (size : AccessSize), s.hitsBlock addr size = false →
    addr.toNat + size.bytes ≤ 4294967296 →
    let apart (k : Plane) : Prop := addr.toNat + size.bytes ≤ k.base ∨ k.last < addr.toNat
    let running (p : Plan) : Prop :=
      s.phase = .exec ∧ p.failure = none ∧ ∃ i, decode s.curCmd = .ok i ∧ commandPlan i s = some p
    (s.mem.wf = true → (∀ p, running p → ∀ k ∈ p.dest :: p.sources, apart k) →
      ∃ m : Memory, perform (.hostStore addr size v) s = .next { s with mem := m } ∧ m.wf = true ∧
        (∀ k, k < size.bytes → (m.read (addr.toNat + k)).toNat = v.toNat / 256 ^ k % 256) ∧
        (∀ a, a < addr.toNat ∨ addr.toNat + size.bytes ≤ a → m.read a = s.mem.read a)) ∧
    ((∀ p, running p → apart p.dest) →
      ∃ d : Word, perform (.hostLoad addr size) s = .next { s with hostData := d } ∧
        ∀ k, k < 4 → d.toNat / 256 ^ k % 256 = if k < size.bytes then (s.mem.read (addr.toNat + k)).toNat else 0)

/-- R93: while a command that touches memory runs, a host store into one of its source ranges or into its destination range,
and a host load from its destination range, are refused. -/
def Obligations.HostRaceRefused : Prop :=
  ∀ (s : State) (i : Instr) (p : Plan) (addr v : Word) (size : AccessSize), s.phase = .exec →
    decode s.curCmd = .ok i → commandPlan i s = some p → p.failure = none → s.hitsBlock addr size = false →
    addr.toNat + size.bytes ≤ 4294967296 →
    ((∃ k ∈ p.dest :: p.sources, addr.toNat ≤ k.last ∧ k.base < addr.toNat + size.bytes) →
      perform (.hostStore addr size v) s = .refused .hostRace) ∧
    (addr.toNat ≤ p.dest.last ∧ p.dest.base < addr.toNat + size.bytes →
      perform (.hostLoad addr size) s = .refused .hostRace)

/-- R274, R278: error entry, and that it does nothing in FAILED. -/
def Obligations.ErrorEntry : Prop :=
  ∀ (s : State) (code : ErrCode) (check : Byte) (plane : BitVec 2) (addr : Word),
    raiseError code check plane addr s =
      if s.phase = .failed then s
      else
        { s with
          errCode := code
          phase := .failed
          errOp := if s.phase = .exec ∨ s.phase = .waitVsync then BitVec.ofNat 8 s.curCmd.toNat else 0
          errCheck := check
          errPlane := plane
          errAddr := addr
          dispReq := false
          dispAddr := 0
          irqStatus := s.irqStatus ||| 2 }

/-- R239, R275, R277, R278: DISP_ERR in every phase. In FAILED it is ignored; in IDLE and WAIT_VSYNC it enters FAILED with check
17, with OP 0 and with PRESENT's; in EXEC it stops the command, with its OP. A stopped command that touches memory has each
byte at its old value or at the command's new one and no byte outside its destination range changed; it has either changed
nothing or begun its effects, which for GAMMA_APPLY is to have built the table (R171). That a command without memory accesses
is stopped before its effects, and that the other registers stay, is the model's reading (log 12). A command whose planes
overlap has no defined stores (R94), and the DISP_ERR that hits it is refused (log 14). -/
def Obligations.DisplayErrorDuringExec : Prop :=
  ∀ s : State,
    let op : Byte := BitVec.ofNat 8 s.curCmd.toNat
    let failed (t : State) (op : Byte) : State :=
      { t with
        errCode := .hardwareFault, phase := .failed, errOp := op, errCheck := 17, errPlane := 0, errAddr := 0,
        dispReq := false, dispAddr := 0, irqStatus := s.irqStatus ||| 2 }
    (s.phase = .failed → perform .dispErr s = .next s) ∧
    (s.phase = .idle → perform .dispErr s = .next (failed s 0)) ∧
    (s.phase = .waitVsync → perform .dispErr s = .next (failed s op) ∧ (s.Inv → op = 0x40)) ∧
    (s.phase = .exec → (∀ i p, decode s.curCmd = .ok i → commandPlan i s = some p → p.failure ≠ none) →
      perform .dispErr s = .next (failed s op)) ∧
    (s.phase = .exec → ∀ (i : Instr) (p : Plan), decode s.curCmd = .ok i → commandPlan i s = some p →
      p.failure = none → p.overlaps = true → perform .dispErr s = .refused .sourceDestinationOverlap) ∧
    (s.phase = .exec → ∀ (i : Instr) (p : Plan), s.mem.wf = true → decode s.curCmd = .ok i → commandPlan i s = some p →
      p.failure = none → p.overlaps = false →
      let begun : State := if i ∈ [.gammaApplyRgb565, .gammaApplyBgr888, .gammaApplyArgb8888] then ensureLut s else s
      ∃ t, perform .dispErr s = .next (failed t op) ∧
        t = { s with mem := t.mem, lutRam := t.lutRam, lutValid := t.lutValid, freeCount := s.freeCount + 1 } ∧
        (∀ a, a < p.dest.base ∨ p.dest.last < a → t.mem.read a = s.mem.read a) ∧
        (∀ a, t.mem.read a = s.mem.read a ∨ t.mem.read a = (applyStores p.stores s.mem).read a) ∧
        (t.mem = s.mem ∧ t.lutRam = s.lutRam ∧ t.lutValid = s.lutValid ∨
          t.lutRam = begun.lutRam ∧ t.lutValid = begun.lutValid))

/-- R276, R275, R274: a bus error on an access that the command must make stops it (the first clause). Whenever one stops it, the
access is one of the command's reads, or, but in place (R94, R124), one of its extra reads (log 11) or its writes; it gets the
error, and ERR_ADDR and PLANE are its own. Each byte is old or new, none of a failing write is written, and no byte outside the
destination range changes; GAMMA_APPLY has built the table (R171; log 12); nothing else changes but what error entry writes.
Which access and which bytes are free (logs 9, 10). -/
def Obligations.BusErrorStopsCommand : Prop :=
  ∀ (s : State) (i : Instr) (p : Plan), s.mem.wf = true → s.phase = .exec → commandPlan i s = some p →
    p.failure = none → p.overlaps = false →
    let begun : State := if i ∈ [.gammaApplyRgb565, .gammaApplyBgr888, .gammaApplyArgb8888] then ensureLut s else s
    ((∃ a ∈ p.reads ++ p.stores.map Store.access, s.busErrorOn a = true) → ∃ a, p.busFault s = some a) ∧
    ∀ a, p.busFault s = some a →
      s.busErrorOn a = true ∧
      (a ∈ p.reads ∨ p.inPlace = false ∧ (a ∈ p.extraReads s ∨ a ∈ p.stores.map Store.access)) ∧
      ∃ t, exec i s = .next t ∧
        t = { begun with
              mem := t.mem, freeCount := s.freeCount + 1, errCode := .hardwareFault, phase := .failed,
              errOp := BitVec.ofNat 8 s.curCmd.toNat, errCheck := 16, errPlane := a.plane,
              errAddr := BitVec.ofNat 32 a.addr, dispReq := false, dispAddr := 0, irqStatus := s.irqStatus ||| 2 } ∧
        (∀ b, b < p.dest.base ∨ p.dest.last < b → t.mem.read b = s.mem.read b) ∧
        (∀ b, t.mem.read b = s.mem.read b ∨ t.mem.read b = (applyStores p.stores s.mem).read b) ∧
        (∀ st ∈ p.stores, s.busErrorOn st.access = true → ∀ k, k < st.bytes.length →
          t.mem.read (st.addr + k) = s.mem.read (st.addr + k))

/-- R94: a command that passes its checks and whose source and destination ranges meet, other than exactly in place, is
refused. -/
def Obligations.OverlapRefused : Prop :=
  ∀ (s : State) (i : Instr) (p : Plan), commandPlan i s = some p → p.failure = none →
    (∃ k ∈ p.sources, k.base ≤ p.dest.last ∧ p.dest.base ≤ k.last) →
    (p.inPlace = false → exec i s = .refused .sourceDestinationOverlap) ∧
    (p.inPlace = true →
      i ∈ [.ccmApplyRgb565, .ccmApplyBgr888, .ccmApplyArgb8888, .gammaApplyRgb565, .gammaApplyBgr888,
        .gammaApplyArgb8888] ∧ s.params.srcBase0 = s.params.dstBase ∧ s.params.srcPitch0 = s.params.dstPitch)

/-- R123: a command step that one of the checks 1–15 stops changes nothing but what error entry writes: no memory byte, not
PIX_OUT, not the LUT RAM, LUT_VALID, IN_FRAME or ACTIVE_IDX. (The inputs that remain are the model's own, log 2.) -/
def Obligations.ChecksPrecedeEffects : Prop :=
  ∀ s t : State, s.phase = .exec → s.nextEvent = some .command → step s = .next t → t.phase = .failed → t.errCheck ≠ 16 →
    t = { s with
          inputs := s.inputsAfter, errCode := t.errCode, phase := .failed, errOp := BitVec.ofNat 8 s.curCmd.toNat,
          errCheck := t.errCheck, errPlane := t.errPlane, errAddr := 0, dispReq := false, dispAddr := 0,
          irqStatus := s.irqStatus ||| 2 }

/-- R272, R273: CONVERT reports the first failing check of 9, 10, 11, 13, 14, 15, with its plane; DRAW makes check 5 before
them and takes its destination from the inactive surface (R253). Each row gives a format's two commands, whether it needs W and
H even (R217), and its planes (R82): number, the divisor of H for the rows, and row bytes as a multiple and a divisor of W. W
and H are the low and the high half of SRC_SIZE, and of DST_SIZE for CONVERT's destination (R39, R40). -/
def Obligations.StreamChecksInOrder : Prop :=
  ∀ (q : Instr × Instr × (Bool × Bool) × List (Nat × Nat × Nat × Nat)) (s : State), s.phase = .exec →
    q ∈ [(.convertBgr888, .drawBgr888, (false, false), [(0, 1, 3, 1)]),
      (.convertI420, .drawI420, (true, true), [(0, 1, 1, 1), (1, 2, 1, 2), (2, 2, 1, 2)]),
      (.convertYv12, .drawYv12, (true, true), [(0, 1, 1, 1), (1, 2, 1, 2), (2, 2, 1, 2)]),
      (.convertI422, .drawI422, (true, false), [(0, 1, 1, 1), (1, 1, 1, 2), (2, 1, 1, 2)]),
      (.convertI444, .drawI444, (false, false), [(0, 1, 1, 1), (1, 1, 1, 1), (2, 1, 1, 1)]),
      (.convertI400, .drawI400, (false, false), [(0, 1, 1, 1)]),
      (.convertNv12, .drawNv12, (true, true), [(0, 1, 1, 1), (1, 2, 1, 1)]),
      (.convertNv21, .drawNv21, (true, true), [(0, 1, 1, 1), (1, 2, 1, 1)]),
      (.convertYuy2, .drawYuy2, (true, false), [(0, 1, 2, 1)]),
      (.convertUyvy, .drawUyvy, (true, false), [(0, 1, 2, 1)]),
      (.drawRgb565, .drawRgb565, (false, false), [(0, 1, 2, 1)])] →
    let p := s.params
    let srcW := p.srcSize.toNat % 65536
    let srcH := p.srcSize.toNat / 65536
    let target : Surface :=
      ⟨p.dstBase.toNat, p.dstPitch.toNat, p.dstSize.toNat % 65536, p.dstSize.toNat / 65536⟩
    let base (k : Nat) : Nat := ([p.srcBase0, p.srcBase1, p.srcBase2].getD k 0).toNat
    let pitch (k : Nat) : Nat := ([p.srcPitch0, p.srcPitch1, p.srcPitch2].getD k 0).toNat
    let rows (r : Nat × Nat × Nat × Nat) : Nat := srcH / r.2.1
    let rowBytes (r : Nat × Nat × Nat × Nat) : Nat := r.2.2.1 * srcW / r.2.2.2
    let fails (i : Instr) (code : ErrCode) (check : Byte) (plane : Nat) : Prop :=
      exec i s = .next (s.enterFailed code check (BitVec.ofNat 2 plane) 0)
    let geometry (i : Instr) (dst : Surface) : Prop :=
      if srcW = 0 ∨ srcH = 0 then fails i .conversionFailed 9 0
      else if dst.width = 0 ∨ dst.height = 0 then fails i .conversionFailed 10 3
      else if q.2.2.1.1 = true ∧ srcW % 2 = 1 ∨ q.2.2.1.2 = true ∧ srcH % 2 = 1 then
        fails i .conversionFailed 11 0
      else
        match q.2.2.2.find? (fun r => decide (pitch r.1 < rowBytes r)) with
        | some r => fails i .conversionFailed 13 r.1
        | none =>
          if dst.pitch < 2 * dst.width then fails i .conversionFailed 14 3
          else
            match q.2.2.2.find? (fun r => decide (0xFFFFFFFF < base r.1 + (rows r - 1) * pitch r.1 + rowBytes r - 1)) with
            | some r => fails i .conversionFailed 15 r.1
            | none =>
              0xFFFFFFFF < dst.base + (dst.height - 1) * dst.pitch + 2 * dst.width - 1 → fails i .conversionFailed 15 3
    (if s.inFrame = false then fails q.2.1 .sequenceError 5 0 else geometry q.2.1 s.inactiveSurface) ∧
    (q.1 ≠ q.2.1 → geometry q.1 target)

/-- R272, R273: CCM_APPLY, GAMMA_APPLY and DEBAYER report the first failing check of 9–15; check 11 is DEBAYER's alone.
Width and height are the low and the high half of SRC_SIZE and of DST_SIZE (R39, R40). -/
def Obligations.SameSizeChecksInOrder : Prop :=
  ∀ (q : Instr × Nat × Nat) (s : State), s.phase = .exec →
    q ∈ [(.ccmApplyRgb565, 2, 2), (.ccmApplyBgr888, 3, 3), (.ccmApplyArgb8888, 4, 4), (.gammaApplyRgb565, 2, 2),
      (.gammaApplyBgr888, 3, 3), (.gammaApplyArgb8888, 4, 4), (.debayerRggbBgr888, 1, 3), (.debayerRggbRgb565, 1, 2),
      (.debayerGrbgBgr888, 1, 3), (.debayerGrbgRgb565, 1, 2), (.debayerGbrgBgr888, 1, 3), (.debayerGbrgRgb565, 1, 2),
      (.debayerBggrBgr888, 1, 3), (.debayerBggrRgb565, 1, 2)] →
    let p := s.params
    let srcW := p.srcSize.toNat % 65536
    let srcH := p.srcSize.toNat / 65536
    let dstW := p.dstSize.toNat % 65536
    let dstH := p.dstSize.toNat / 65536
    let fails (check : Byte) (plane : BitVec 2) : Prop :=
      exec q.1 s = .next (s.enterFailed .conversionFailed check plane 0)
    if srcW = 0 ∨ srcH = 0 then fails 9 0
    else if dstW = 0 ∨ dstH = 0 then fails 10 3
    else if q.2.1 = 1 ∧ (srcW % 2 = 1 ∨ srcH % 2 = 1) then fails 11 0
    else if dstW ≠ srcW ∨ dstH ≠ srcH then fails 12 3
    else if p.srcPitch0.toNat < q.2.1 * srcW then fails 13 0
    else if p.dstPitch.toNat < q.2.2 * dstW then fails 14 3
    else if 0xFFFFFFFF < p.srcBase0.toNat + (srcH - 1) * p.srcPitch0.toNat + q.2.1 * srcW - 1 then fails 15 0
    else
      0xFFFFFFFF < p.dstBase.toNat + (dstH - 1) * p.dstPitch.toNat + q.2.2 * dstW - 1 → fails 15 3

/-- R127: NOP is the word 0; it completes and does nothing else. A word with OP = 0 and another field nonzero is illegal, and
NOP in phase FAILED is rejected. -/
def Obligations.NopCompletes : Prop :=
  decode 0x00000000 = .ok .nop ∧
  (∀ s : State, exec .nop s = .next { s with phase := .idle, irqStatus := s.irqStatus ||| 1 }) ∧
  (∀ w : Word, w.toNat % 256 = 0 → w ≠ 0 →
    decode w ∈ ([.error .reservedBits, .error .illegalSource, .error .illegalDestination] :
      List (Except DecodeError Instr))) ∧
  (∀ s : State, s.phase = .failed → writeOffset 0x010 0 s = .next { s with irqStatus := s.irqStatus ||| 4 })

/-- R140, R161: the exact integer transform, clamped to 8 bits; PIX_YUV2RGB applies it to the three low bytes of every PIX_IN;
PIX_IN[31:24] has no effect. -/
def Obligations.PixYuv2rgbResult : Prop :=
  let clamp (v : Int) : Int := max 0 (min 255 v)
  let red (c e : Int) : Int := clamp ((298 * c + 409 * e + 128) / 256)
  let green (c d e : Int) : Int := clamp ((298 * c - 100 * d - 208 * e + 128) / 256)
  let blue (c d : Int) : Int := clamp ((298 * c + 516 * d + 128) / 256)
  (∀ y u v : Byte,
    let c : Int := (y.toNat : Int) - 16
    let d : Int := (u.toNat : Int) - 128
    let e : Int := (v.toNat : Int) - 128
    let p := yuvToRgb y u v
    (p.r.toNat : Int) = red c e ∧ (p.g.toNat : Int) = green c d e ∧ (p.b.toNat : Int) = blue c d) ∧
  decode 0x00000001 = .ok .pixYuv2rgb ∧
  ∀ s : State,
    let x := s.params.pixIn.toNat
    let c : Int := ((x % 256 : Nat) : Int) - 16
    let d : Int := ((x / 256 % 256 : Nat) : Int) - 128
    let e : Int := ((x / 65536 % 256 : Nat) : Int) - 128
    ∃ out : Word,
      exec .pixYuv2rgb s = .next { s with pixOut := out, phase := .idle, irqStatus := s.irqStatus ||| 1 } ∧
      (out.toNat : Int) = red c e + 256 * green c d e + 65536 * blue c d

/-- R142, R143, R162, R163: packing and unpacking of RGB565, and the two commands that apply them to PIX_IN. -/
def Obligations.PixPackAndUnpackResult : Prop :=
  let pack (r g b : Nat) : Nat := 2048 * (r / 8) + 32 * (g / 4) + b / 8
  (∀ p : Rgb, (packRgb565 p).toNat = pack p.r.toNat p.g.toNat p.b.toNat) ∧
  (∀ p : Half,
    let q := unpackRgb565 p
    q.r.toNat = 8 * (p.toNat / 2048) + 4 ∧ q.g.toNat = 4 * (p.toNat / 32 % 64) + 2 ∧ q.b.toNat = 8 * (p.toNat % 32) + 4) ∧
  decode 0x00000002 = .ok .pixPack565 ∧ decode 0x00000003 = .ok .pixUnpack565 ∧
  ∀ s : State,
    let x := s.params.pixIn.toNat
    (∃ out : Word,
      exec .pixPack565 s = .next { s with pixOut := out, phase := .idle, irqStatus := s.irqStatus ||| 1 } ∧
      out.toNat = pack (x % 256) (x / 256 % 256) (x / 65536 % 256)) ∧
    (∃ out : Word,
      exec .pixUnpack565 s = .next { s with pixOut := out, phase := .idle, irqStatus := s.irqStatus ||| 1 } ∧
      out.toNat = (8 * (x / 2048 % 32) + 4) + 256 * (4 * (x / 32 % 64) + 2) + 65536 * (8 * (x % 32) + 4))

/-- R144: (a) packing then unpacking changes r and b by −4 to 3 and g by −2 to 1 (as r minus its image: [−4, 3], [−2, 1]);
(b) unpacking then packing is the identity. -/
def Obligations.PackUnpackRoundTrip : Prop :=
  (∀ p : Rgb,
    let q := unpackRgb565 (packRgb565 p)
    (-4 ≤ (p.r.toNat : Int) - q.r.toNat ∧ (p.r.toNat : Int) - q.r.toNat ≤ 3) ∧
    (-2 ≤ (p.g.toNat : Int) - q.g.toNat ∧ (p.g.toNat : Int) - q.g.toNat ≤ 1) ∧
    (-4 ≤ (p.b.toNat : Int) - q.b.toNat ∧ (p.b.toNat : Int) - q.b.toNat ≤ 3)) ∧
  (∀ p : Half, packRgb565 (unpackRgb565 p) = p)

/-- R145, R164: PIX_CCM: the saturating Q8.8 matrix when EN = 1, PIX_OUT = PIX_IN when EN = 0; alpha is kept. -/
def Obligations.PixCcmResult : Prop :=
  decode 0x00000004 = .ok .pixCcm ∧
  ∀ s : State,
    let x := s.params.pixIn.toNat
    let r : Int := (x % 256 : Nat)
    let g : Int := (x / 256 % 256 : Nat)
    let b : Int := (x / 65536 % 256 : Nat)
    let row (m0 m1 m2 : Half) : Int := max 0 (min 255 ((m0.toInt * r + m1.toInt * g + m2.toInt * b + 128) / 256))
    let m := s.params.ccm
    ∃ out : Word,
      exec .pixCcm s = .next { s with pixOut := out, phase := .idle, irqStatus := s.irqStatus ||| 1 } ∧
      (s.params.ccmEn = false → out = s.params.pixIn) ∧
      (s.params.ccmEn = true →
        (out.toNat : Int) = row m.c00 m.c01 m.c02 + 256 * row m.c10 m.c11 m.c12 + 65536 * row m.c20 m.c21 m.c22
          + 16777216 * (x / 16777216 : Nat))

/-- R165, R170: GAMMA_BUILD and PIX_GAMMA build the table if it is not valid; PIX_GAMMA looks up each channel and keeps alpha.
The hypothesis is the invariant that a valid LUT RAM holds the table. -/
def Obligations.GammaBuildAndPixGamma : Prop :=
  decode 0x00000011 = .ok .gammaBuild ∧ decode 0x00000005 = .ok .pixGamma ∧
  ∀ s : State, (s.lutValid = true → s.lutRam = gammaTable) →
    let x := s.params.pixIn.toNat
    let lut (k : Nat) : Nat := (gammaTable.getD k 0).toNat
    lut 0 = 0 ∧ lut 255 = 255 ∧
    exec .gammaBuild s = .next
      { s with lutRam := gammaTable, lutValid := true, phase := .idle, irqStatus := s.irqStatus ||| 1 } ∧
    ∃ out : Word,
      exec .pixGamma s = .next
        { s with
          lutRam := gammaTable, lutValid := true, pixOut := out, phase := .idle, irqStatus := s.irqStatus ||| 1 } ∧
      out.toNat = lut (x % 256) + 256 * lut (x / 256 % 256) + 65536 * lut (x / 65536 % 256)
        + 16777216 * (x / 16777216)

/-- R151: the table is the sRGB opto-electronic transfer function at i/255, rounded to the nearest 8-bit value, over the reals;
no sample lies on a rounding tie. -/
def Obligations.GammaTableIsSrgb : Prop :=
  gammaTable.length = 256 ∧
  ∀ i : Nat, i < 256 →
    let l : ℝ := (i : ℝ) / 255
    let transfer : ℝ := if l ≤ 0.0031308 then 12.92 * l else 1.055 * l ^ ((1 : ℝ) / 2.4) - 0.055
    |255 * transfer - ((gammaTable.getD i 0).toNat : ℝ)| < 1 / 2

/-- R166–R169: CCM_APPLY with the matrix absent copies the image bit for bit, in place or not, and changes no other byte. -/
def Obligations.CcmApplyAbsentCopies : Prop :=
  ∀ (q : Instr × RgbFormat) (s : State),
    q ∈ [(.ccmApplyRgb565, .rgb565), (.ccmApplyBgr888, .bgr888), (.ccmApplyArgb8888, .argb8888)] →
    let bpp := q.2.bpp
    let k := s.params.srcPlane0 s.params.srcH (bpp * s.params.srcW)
    s.params.ccmEn = false → SameSizeReady k bpp s → DisjointOrInPlace k bpp s →
    ∃ m, exec q.1 s = .next (s.doneWith m) ∧
      ImageWritten s bpp
        (fun col i => rawBytes s.mem (s.params.srcBase0.toNat + i * s.params.srcPitch0.toNat + bpp * col) bpp) m

/-- R166–R169: CCM_APPLY with the matrix present corrects every pixel; alpha is copied. -/
def Obligations.CcmApplyCorrects : Prop :=
  ∀ s : State, s.params.ccmEn = true →
    let p := s.params
    let src (bpp col i : Nat) : Nat := p.srcBase0.toNat + i * p.srcPitch0.toNat + bpp * col
    let ready (bpp : Nat) : Prop :=
      SameSizeReady (p.srcPlane0 p.srcH (bpp * p.srcW)) bpp s ∧ DisjointOrInPlace (p.srcPlane0 p.srcH (bpp * p.srcW)) bpp s
    let at24 (a : Nat) : Rgb := ccmApply p.ccm ⟨s.mem.read (a + 2), s.mem.read (a + 1), s.mem.read a⟩
    (ready 2 → ∃ m, exec .ccmApplyRgb565 s = .next (s.doneWith m) ∧
      ImageWritten s 2
        (fun col i =>
          let px := packRgb565 (ccmApply p.ccm (unpackRgb565 (BitVec.ofNat 16 (s.mem.readLE (src 2 col i) 2))))
          [BitVec.ofNat 8 px.toNat, BitVec.ofNat 8 (px.toNat / 256)]) m) ∧
    (ready 3 → ∃ m, exec .ccmApplyBgr888 s = .next (s.doneWith m) ∧
      ImageWritten s 3 (fun col i => let px := at24 (src 3 col i); [px.b, px.g, px.r]) m) ∧
    (ready 4 → ∃ m, exec .ccmApplyArgb8888 s = .next (s.doneWith m) ∧
      ImageWritten s 4
        (fun col i => let px := at24 (src 4 col i); [px.b, px.g, px.r, s.mem.read (src 4 col i + 3)]) m)

/-- R171–R174: GAMMA_APPLY builds the table if it is not valid and looks up every channel of every pixel; alpha is copied. The
first hypothesis is the invariant that a valid LUT RAM holds the table. -/
def Obligations.GammaApplyLooksUp : Prop :=
  ∀ s : State, (s.lutValid = true → s.lutRam = gammaTable) →
    let p := s.params
    let src (bpp col i : Nat) : Nat := p.srcBase0.toNat + i * p.srcPitch0.toNat + bpp * col
    let ready (bpp : Nat) : Prop :=
      SameSizeReady (p.srcPlane0 p.srcH (bpp * p.srcW)) bpp s ∧ DisjointOrInPlace (p.srcPlane0 p.srcH (bpp * p.srcW)) bpp s
    let lut (b : Byte) : Byte := gammaTable.getD b.toNat 0
    let built : State := { s with lutRam := gammaTable, lutValid := true }
    (ready 2 → ∃ m, exec .gammaApplyRgb565 s = .next (built.doneWith m) ∧
      ImageWritten s 2
        (fun col i =>
          let px := unpackRgb565 (BitVec.ofNat 16 (s.mem.readLE (src 2 col i) 2))
          let out := packRgb565 ⟨lut px.r, lut px.g, lut px.b⟩
          [BitVec.ofNat 8 out.toNat, BitVec.ofNat 8 (out.toNat / 256)]) m) ∧
    (ready 3 → ∃ m, exec .gammaApplyBgr888 s = .next (built.doneWith m) ∧
      ImageWritten s 3
        (fun col i =>
          let a := src 3 col i
          [lut (s.mem.read a), lut (s.mem.read (a + 1)), lut (s.mem.read (a + 2))]) m) ∧
    (ready 4 → ∃ m, exec .gammaApplyArgb8888 s = .next (built.doneWith m) ∧
      ImageWritten s 4
        (fun col i =>
          let a := src 4 col i
          [lut (s.mem.read a), lut (s.mem.read (a + 1)), lut (s.mem.read (a + 2)), s.mem.read (a + 3)]) m)

/-- R181–R185: the demosaic at every site of a mosaic of at least 2 × 2 samples, with the neighbours that leave the image
mirrored: at an R or B site the own sample, the rounded average of the four edge neighbours and that of the four diagonals; at
a G site the rounded averages of the two horizontal and the two vertical neighbours. The colour of a site is read from the
four letters of the pattern's name. -/
def Obligations.DemosaicSites : Prop :=
  ∀ (q : BayerPattern × List CfaColor) (raw : Nat → Nat → Byte) (w h x y : Nat),
    q ∈ [(.rggb, [.red, .green, .green, .blue]), (.grbg, [.green, .red, .blue, .green]),
      (.gbrg, [.green, .blue, .red, .green]), (.bggr, [.blue, .green, .green, .red])] →
    2 ≤ w → 2 ≤ h → x < w → y < h →
    let color (a b : Nat) : CfaColor := q.2.getD (b % 2 * 2 + a % 2) .green
    let west := if x = 0 then 1 else x - 1
    let east := if x + 1 = w then w - 2 else x + 1
    let north := if y = 0 then 1 else y - 1
    let south := if y + 1 = h then h - 2 else y + 1
    let v (a b : Nat) : Nat := (raw a b).toNat
    let out := demosaic q.1 raw w h x y
    let edges := (v west y + v east y + v x north + v x south + 2) / 4
    let diagonals := (v west north + v east north + v west south + v east south + 2) / 4
    let horizontal := (v west y + v east y + 1) / 2
    let vertical := (v x north + v x south + 1) / 2
    (color x y = .red → out.r.toNat = v x y ∧ out.g.toNat = edges ∧ out.b.toNat = diagonals) ∧
    (color x y = .blue → out.b.toNat = v x y ∧ out.g.toNat = edges ∧ out.r.toNat = diagonals) ∧
    (color x y = .green → color (x + 1) y = .red →
      out.g.toNat = v x y ∧ out.r.toNat = horizontal ∧ out.b.toNat = vertical) ∧
    (color x y = .green → color (x + 1) y ≠ .red →
      out.g.toNat = v x y ∧ out.r.toNat = vertical ∧ out.b.toNat = horizontal)

/-- R186–R194: DEBAYER writes the demosaiced pixel at every place of the destination rectangle, whatever DST_POS, and changes
no other byte. -/
def Obligations.DebayerWritesDemosaic : Prop :=
  ∀ (q : Instr × Instr × BayerPattern) (s : State),
    q ∈ [(.debayerRggbBgr888, .debayerRggbRgb565, .rggb), (.debayerGrbgBgr888, .debayerGrbgRgb565, .grbg),
      (.debayerGbrgBgr888, .debayerGbrgRgb565, .gbrg), (.debayerBggrBgr888, .debayerBggrRgb565, .bggr)] →
    let p := s.params
    let k := p.srcPlane0 p.srcH p.srcW
    let pixel (col i : Nat) : Rgb :=
      demosaic q.2.2 (fun x y => s.mem.read (p.srcBase0.toNat + y * p.srcPitch0.toNat + x)) p.srcW p.srcH col i
    p.srcW % 2 = 0 → p.srcH % 2 = 0 →
    (SameSizeReady k 3 s → k.meets (p.dstSurface.plane 3) = false →
      ∃ m, exec q.1 s = .next (s.doneWith m) ∧
        ImageWritten s 3 (fun col i => [(pixel col i).b, (pixel col i).g, (pixel col i).r]) m) ∧
    (SameSizeReady k 2 s → k.meets (p.dstSurface.plane 2) = false →
      ∃ m, exec q.2.1 s = .next (s.doneWith m) ∧
        ImageWritten s 2
          (fun col i =>
            [BitVec.ofNat 8 (packRgb565 (pixel col i)).toNat, BitVec.ofNat 8 ((packRgb565 (pixel col i)).toNat / 256)])
          m)

/-- R200, R202, R205–R209: CONVERT from the planar formats writes, for each source pixel that lands inside the destination,
the RGB565 word of its Y, U and V samples, and changes no other byte. -/
def Obligations.ConvertPlanarWritesPixels : Prop :=
  ∀ s : State,
    let p := s.params
    let dst := p.dstSurface
    let b (a : Nat) : Byte := s.mem.read a
    let luma (col i : Nat) : Byte := b (p.srcBase0.toNat + i * p.srcPitch0.toNat + col)
    let one (row col : Nat) : Byte := b (p.srcBase1.toNat + row * p.srcPitch1.toNat + col)
    let two (row col : Nat) : Byte := b (p.srcBase2.toNat + row * p.srcPitch2.toNat + col)
    let converts (i : Instr) (f : StreamFormat) (value : Nat → Nat → Half) : Prop :=
      StreamReady f s dst → ∃ m, exec i s = .next (s.doneWith m) ∧ StreamWritten s dst value m
    converts .convertI420 .i420
      (fun col i => packRgb565 (yuvToRgb (luma col i) (one (i / 2) (col / 2)) (two (i / 2) (col / 2)))) ∧
    converts .convertYv12 .yv12
      (fun col i => packRgb565 (yuvToRgb (luma col i) (two (i / 2) (col / 2)) (one (i / 2) (col / 2)))) ∧
    converts .convertI422 .i422
      (fun col i => packRgb565 (yuvToRgb (luma col i) (one i (col / 2)) (two i (col / 2)))) ∧
    converts .convertI444 .i444 (fun col i => packRgb565 (yuvToRgb (luma col i) (one i col) (two i col))) ∧
    converts .convertI400 .i400 (fun col i => packRgb565 (yuvToRgb (luma col i) 128 128))

/-- R200, R202, R204, R210–R213: CONVERT from the interleaved, packed and BGR888 formats. -/
def Obligations.ConvertInterleavedWritesPixels : Prop :=
  ∀ s : State,
    let p := s.params
    let dst := p.dstSurface
    let b (a : Nat) : Byte := s.mem.read a
    let luma (col i : Nat) : Byte := b (p.srcBase0.toNat + i * p.srcPitch0.toNat + col)
    let pair (col i : Nat) : Nat := p.srcBase1.toNat + i / 2 * p.srcPitch1.toNat + 2 * (col / 2)
    let packed (col i : Nat) : Nat := p.srcBase0.toNat + i * p.srcPitch0.toNat + 4 * (col / 2)
    let triple (col i : Nat) : Nat := p.srcBase0.toNat + i * p.srcPitch0.toNat + 3 * col
    let converts (i : Instr) (f : StreamFormat) (value : Nat → Nat → Half) : Prop :=
      StreamReady f s dst → ∃ m, exec i s = .next (s.doneWith m) ∧ StreamWritten s dst value m
    converts .convertNv12 .nv12
      (fun col i => packRgb565 (yuvToRgb (luma col i) (b (pair col i)) (b (pair col i + 1)))) ∧
    converts .convertNv21 .nv21
      (fun col i => packRgb565 (yuvToRgb (luma col i) (b (pair col i + 1)) (b (pair col i)))) ∧
    converts .convertYuy2 .yuy2
      (fun col i =>
        packRgb565 (yuvToRgb (b (packed col i + 2 * (col % 2))) (b (packed col i + 1)) (b (packed col i + 3)))) ∧
    converts .convertUyvy .uyvy
      (fun col i =>
        packRgb565 (yuvToRgb (b (packed col i + 1 + 2 * (col % 2))) (b (packed col i)) (b (packed col i + 2)))) ∧
    converts .convertBgr888 .bgr888
      (fun col i => packRgb565 ⟨b (triple col i + 2), b (triple col i + 1), b (triple col i)⟩)

/-- R203: a fully clipped CONVERT or DRAW that passes its checks, meets no overlap (R94) and no bus error (R276) writes nothing
and completes normally. DST_X and DST_Y are the low and the high half of DST_POS (R41). -/
def Obligations.FullyClippedWritesNothing : Prop :=
  ∀ (q : Instr × Instr × StreamFormat) (s : State),
    q ∈ [(.convertBgr888, .drawBgr888, .bgr888), (.convertI420, .drawI420, .i420), (.convertYv12, .drawYv12, .yv12),
      (.convertI422, .drawI422, .i422), (.convertI444, .drawI444, .i444), (.convertI400, .drawI400, .i400),
      (.convertNv12, .drawNv12, .nv12), (.convertNv21, .drawNv21, .nv21), (.convertYuy2, .drawYuy2, .yuy2),
      (.convertUyvy, .drawUyvy, .uyvy), (.drawRgb565, .drawRgb565, .rgb565)] →
    let clipped (dst : Surface) : Prop :=
      dst.width ≤ s.params.dstPos.toNat % 65536 ∨ dst.height ≤ s.params.dstPos.toNat / 65536
    (q.1 ≠ q.2.1 → StreamReady q.2.2 s s.params.dstSurface → clipped s.params.dstSurface →
      exec q.1 s = .next (s.doneWith s.mem)) ∧
    (s.inFrame = true → StreamReady q.2.2 s s.inactiveSurface → clipped s.inactiveSurface →
      exec q.2.1 s = .next (s.doneWith s.mem))

/-- R251, R252, R254: DRAW.RGB565 copies each source word that lands inside the inactive surface, unchanged, and changes no
other byte. -/
def Obligations.DrawRgb565CopiesPixels : Prop :=
  ∀ s : State, s.inFrame = true → StreamReady .rgb565 s s.inactiveSurface →
    ∃ m, exec .drawRgb565 s = .next (s.doneWith m) ∧
      StreamWritten s s.inactiveSurface
        (fun col i =>
          BitVec.ofNat 16
            (s.mem.readLE (s.params.srcBase0.toNat + i * s.params.srcPitch0.toNat + 2 * col) 2)) m

/-- R251, R252, R255–R264: every other DRAW writes onto the inactive surface the pixels that CONVERT's rule of the same format
gives (`StreamFormat.pixel`), clipped, and changes no other byte. -/
def Obligations.DrawConvertsPixels : Prop :=
  ∀ (q : Instr × StreamFormat) (s : State),
    q ∈ [(.drawBgr888, .bgr888), (.drawI420, .i420), (.drawYv12, .yv12), (.drawI422, .i422), (.drawI444, .i444),
      (.drawI400, .i400), (.drawNv12, .nv12), (.drawNv21, .nv21), (.drawYuy2, .yuy2), (.drawUyvy, .uyvy)] →
    s.inFrame = true → StreamReady q.2 s s.inactiveSurface →
    ∃ m, exec q.1 s = .next (s.doneWith m) ∧
      StreamWritten s s.inactiveSurface (fun col i => q.2.pixel s.params s.mem col i) m

/-- R250, R265: BEGIN_FRAME and END_FRAME, and their sequence errors (checks 6 and 5). -/
def Obligations.BracketCommands : Prop :=
  decode 0x00000050 = .ok .beginFrame ∧ decode 0x00000052 = .ok .endFrame ∧
  ∀ s : State,
    (s.inFrame = false →
      exec .beginFrame s = .next { s with inFrame := true, phase := .idle, irqStatus := s.irqStatus ||| 1 }) ∧
    (s.inFrame = true →
      exec .endFrame s = .next { s with inFrame := false, phase := .idle, irqStatus := s.irqStatus ||| 1 }) ∧
    (s.inFrame = true → s.phase = .exec → exec .beginFrame s = .next (s.enterFailed .sequenceError 6 0 0)) ∧
    (s.inFrame = false → s.phase = .exec → exec .endFrame s = .next (s.enterFailed .sequenceError 5 0 0))

/-- R235, R236, R272 (check 6): PRESENT's request, or its sequence error inside a bracket. -/
def Obligations.PresentRequest : Prop :=
  ∀ s : State,
    let target : BitVec 2 := BitVec.ofNat 2 ((s.activeIdx.toNat + 1) % s.params.fbN.toNat)
    (s.inFrame = false →
      exec .present s = .next
        { s with
          presentTarget := target, dispAddr := s.params.fbBase target, dispReq := true, phase := .waitVsync }) ∧
    (s.inFrame = true → s.phase = .exec → exec .present s = .next (s.enterFailed .sequenceError 6 0 0))

/-- R237, R234 (b), R238: VSYNC_ACK completes PRESENT in one step, with the display's switch, and is ignored in every other
phase. That a stray VSYNC_ACK leaves the display's own SCAN_BASE is the model's choice (log 6). -/
def Obligations.VsyncAcknowledge : Prop :=
  ∀ s : State,
    perform .vsyncAck s =
      if s.phase = .waitVsync then
        .next
          { s with
            scanBase := s.dispAddr, activeIdx := s.presentTarget, dispReq := false, dispAddr := 0,
            irqStatus := s.irqStatus ||| 1, phase := .idle }
      else .next s

/-- R237, R242: a completed PRESENT makes the surface that was inactive the active one, with its contents; for N = 2 the surface
that was active is the inactive one. -/
def Obligations.PresentSwapsSurfaces : Prop :=
  ∀ s : State, s.Inv → s.inFrame = false →
    ∃ t u, exec .present s = .next t ∧ perform .vsyncAck t = .next u ∧ u.mem = s.mem ∧ u.phase = .idle ∧
      u.activeSurface = s.inactiveSurface ∧ u.scanBase = s.params.fbBase u.activeIdx ∧
      (∀ x y, u.activeSurface.pixel565 u.mem x y = s.inactiveSurface.pixel565 s.mem x y) ∧
      (s.params.fbN = 2 → u.inactiveSurface = s.activeSurface)
end

