-- ==== Sys2Proof/Laws/Color.lean ====
section
/-! SUPPORT. The Color Model's and the demosaic's small functions as numbers: one lemma for each. -/

namespace Sys2Proof.Machine

/-- `clamp8` as a number (00_scope.md R10). -/
theorem clamp8_toNat (v : Int) : ((clamp8 v).toNat : Int) = max 0 (min 255 v) := by
  unfold clamp8
  split
  · simp; omega
  · split
    · simp; omega
    · simp; omega

/-- The gamma table has 256 entries (R152). -/
theorem gammaTable_length : gammaTable.length = Config.lutSize := by decide +kernel

/-- The PIX_* word {a, b, g, r} as a number (R160). -/
theorem pixWord_toNat (a : Byte) (p : Rgb) :
    (pixWord a p).toNat = p.r.toNat + 256 * p.g.toNat + 65536 * p.b.toNat + 16777216 * a.toNat := by
  unfold pixWord
  have := p.r.isLt
  have := p.g.isLt
  have := p.b.isLt
  rw [BitVec.toNat_append, BitVec.toNat_append, BitVec.toNat_append, ← Nat.shiftLeft_add_eq_or_of_lt (by omega),
    ← Nat.shiftLeft_add_eq_or_of_lt (by omega), ← Nat.shiftLeft_add_eq_or_of_lt (by omega)]
  simp only [Nat.shiftLeft_eq]
  omega

/-- The bytes of a PIX_* word as numbers (R160). -/
theorem pixChannels_toNat (x : Word) :
    (pixChannels x).r.toNat = x.toNat % 256 ∧ (pixChannels x).g.toNat = x.toNat / 256 % 256 ∧
      (pixChannels x).b.toNat = x.toNat / 65536 % 256 ∧ (pixAlpha x).toNat = x.toNat / 16777216 := by
  simp [pixChannels, pixAlpha, Nat.shiftRight_eq_div_pow]
  have := x.isLt
  omega

/-- `avg2` as a number (42_demosaic.md R183). -/
theorem avg2_toNat (a b : Byte) : (avg2 a b).toNat = (a.toNat + b.toNat + 1) / 2 := by
  unfold avg2
  have := a.isLt
  have := b.isLt
  simp [Nat.shiftRight_eq_div_pow]
  omega

/-- `avg4` as a number (R183). -/
theorem avg4_toNat (a b c d : Byte) : (avg4 a b c d).toNat = (a.toNat + b.toNat + c.toNat + d.toNat + 2) / 4 := by
  unfold avg4
  have := a.isLt
  have := b.isLt
  have := c.isLt
  have := d.isLt
  simp [Nat.shiftRight_eq_div_pow]
  omega

/-- The mirrored neighbours of a coordinate of an image of at least two rows or columns (R182). -/
theorem mirror_neighbours {x w : Nat} (h : 2 ≤ w) (hx : x < w) :
    mirror ((x : Int) + -1) w = (if x = 0 then 1 else x - 1) ∧ mirror ((x : Int) + 0) w = x ∧
      mirror ((x : Int) + 1) w = (if x + 1 = w then w - 2 else x + 1) := by
  unfold mirror
  refine ⟨?_, ?_, ?_⟩ <;> repeat' split
  all_goals omega

end Sys2Proof.Machine
end

