-- ==== Sys2Proof/Laws/Memory.lean ====
section
/-! SUPPORT. The laws of memory: a write reads back, leaves every other byte alone, and keeps the canonical form. -/

namespace Sys2Proof.Machine

@[simp] theorem Memory.read_nil (a : Nat) : Memory.read [] a = 0 := rfl

theorem Memory.read_cons (k : Nat) (v : Byte) (rest : Memory) (a : Nat) :
    Memory.read ((k, v) :: rest) a = if k = a then v else Memory.read rest a := rfl

theorem Memory.wf_cons {k : Nat} {v : Byte} {rest : Memory} :
    Memory.wf ((k, v) :: rest) = true ↔
      k < Config.addressSpace ∧ v ≠ 0 ∧ (∀ c ∈ rest, k < c.1) ∧ Memory.wf rest = true := by
  simp [Memory.wf, Config.unwrittenByte, and_assoc]

/-- An address below every listed one reads as unwritten. -/
theorem Memory.read_below {m : Memory} {a : Nat} (h : ∀ c ∈ m, a < c.1) : m.read a = 0 := by
  induction m with
  | nil => rfl
  | cons c rest ih =>
    obtain ⟨k, v⟩ := c
    have hk : a < k := h (k, v) (by simp)
    rw [Memory.read_cons, if_neg (by omega)]
    exact ih fun c hc => h c (by simp [hc])

theorem Memory.read_write_other (m : Memory) {a b : Nat} (v : Byte) (h : b ≠ a) :
    (m.write a v).read b = m.read b := by
  induction m with
  | nil =>
    simp only [Memory.write]
    split
    · rfl
    · rw [Memory.read_cons, if_neg (Ne.symm h)]
  | cons c rest ih =>
    obtain ⟨k, w⟩ := c
    simp only [Memory.write]
    split
    · split
      · rfl
      · rw [Memory.read_cons a, if_neg (Ne.symm h)]
    · split
      · rename_i hak
        subst hak
        split
        · rw [Memory.read_cons, if_neg (Ne.symm h)]
        · rw [Memory.read_cons, Memory.read_cons, if_neg (Ne.symm h), if_neg (Ne.symm h)]
      · rw [Memory.read_cons, Memory.read_cons, ih]

theorem Memory.read_write_same {m : Memory} (hm : m.wf = true) (a : Nat) (v : Byte) : (m.write a v).read a = v := by
  induction m with
  | nil =>
    simp only [Memory.write]
    split
    · rename_i h; rw [h]; rfl
    · rw [Memory.read_cons, if_pos rfl]
  | cons c rest ih =>
    obtain ⟨k, w⟩ := c
    obtain ⟨-, -, hrest, hwf⟩ := Memory.wf_cons.1 hm
    simp only [Memory.write]
    split
    · rename_i hak
      split
      · rename_i hv
        rw [hv]
        exact Memory.read_below fun c hc => by
          rcases List.mem_cons.1 hc with rfl | hc
          · exact hak
          · exact lt_trans hak (hrest c hc)
      · rw [Memory.read_cons, if_pos rfl]
    · split
      · rename_i hak
        subst hak
        split
        · rename_i hv
          rw [hv]
          exact Memory.read_below hrest
        · rw [Memory.read_cons, if_pos rfl]
      · rename_i hlt hne
        rw [Memory.read_cons, if_neg (Ne.symm hne), ih hwf]

/-- Every listed address after a write was listed before or is the written one. -/
theorem Memory.mem_write {m : Memory} {a : Nat} {v : Byte} {c : Host.Cell} (h : c ∈ m.write a v) : c ∈ m ∨ c = (a, v) := by
  induction m with
  | nil =>
    simp only [Memory.write] at h
    split at h <;> simp_all
  | cons d rest ih =>
    obtain ⟨k, w⟩ := d
    simp only [Memory.write] at h
    split at h
    · split at h
      · exact .inl h
      · rcases List.mem_cons.1 h with h | h
        · exact .inr h
        · exact .inl h
    · split at h
      · split at h
        · exact .inl (List.mem_cons_of_mem _ h)
        · rcases List.mem_cons.1 h with h | h
          · exact .inr h
          · exact .inl (List.mem_cons_of_mem _ h)
      · rcases List.mem_cons.1 h with h | h
        · exact .inl (by simp [h])
        · rcases ih h with h | h
          · exact .inl (List.mem_cons_of_mem _ h)
          · exact .inr h

/-- A write inside the memory space keeps the canonical form. -/
theorem Memory.wf_write {m : Memory} (hm : m.wf = true) {a : Nat} (ha : a < Config.addressSpace) (v : Byte) :
    (m.write a v).wf = true := by
  induction m with
  | nil =>
    simp only [Memory.write]
    split
    · rfl
    · rename_i h
      exact Memory.wf_cons.2 ⟨ha, h, by simp, rfl⟩
  | cons c rest ih =>
    obtain ⟨k, w⟩ := c
    obtain ⟨hk, hw, hrest, hwf⟩ := Memory.wf_cons.1 hm
    simp only [Memory.write]
    split
    · rename_i hak
      split
      · exact hm
      · rename_i hv
        refine Memory.wf_cons.2 ⟨ha, hv, fun c hc => ?_, hm⟩
        rcases List.mem_cons.1 hc with rfl | hc
        · exact hak
        · exact lt_trans hak (hrest c hc)
    · split
      · rename_i hak
        subst hak
        split
        · exact hwf
        · rename_i hv
          exact Memory.wf_cons.2 ⟨ha, hv, hrest, hwf⟩
      · rename_i hlt hne
        refine Memory.wf_cons.2 ⟨hk, hw, fun c hc => ?_, ih hwf⟩
        rcases Memory.mem_write hc with hc | rfl
        · exact hrest c hc
        · show k < a
          omega

theorem Memory.read_writeBytes_other (bs : List Byte) (m : Memory) {a b : Nat} (h : b < a ∨ a + bs.length ≤ b) :
    (m.writeBytes a bs).read b = m.read b := by
  induction bs generalizing m a with
  | nil => rfl
  | cons v rest ih =>
    simp only [List.length_cons] at h
    rw [Memory.writeBytes, ih _ (by omega), Memory.read_write_other _ _ (by omega)]

theorem Memory.wf_writeBytes (bs : List Byte) {m : Memory} (hm : m.wf = true) {a : Nat}
    (ha : a + bs.length ≤ Config.addressSpace) : (m.writeBytes a bs).wf = true := by
  induction bs generalizing m a with
  | nil => exact hm
  | cons v rest ih =>
    simp only [List.length_cons] at ha
    exact ih (Memory.wf_write hm (by omega) v) (by omega)

theorem Memory.read_writeBytes_get (bs : List Byte) {m : Memory} (hm : m.wf = true) {a : Nat}
    (ha : a + bs.length ≤ Config.addressSpace) {k : Nat} (hk : k < bs.length) :
    (m.writeBytes a bs).read (a + k) = bs[k] := by
  induction bs generalizing m a k with
  | nil => simp at hk
  | cons v rest ih =>
    simp only [List.length_cons] at ha hk
    have hw := Memory.wf_write hm (a := a) (by omega) v
    cases k with
    | zero =>
      rw [Memory.writeBytes, Memory.read_writeBytes_other _ _ (by omega)]
      exact Memory.read_write_same hm a v
    | succ k =>
      have := ih hw (a := a + 1) (by omega) (k := k) (by omega)
      simpa [Memory.writeBytes, Nat.add_assoc, Nat.add_comm 1 k] using this

@[simp] theorem leBytes_length (v n : Nat) : (leBytes v n).length = n := by
  induction n generalizing v with
  | zero => rfl
  | succ n ih => simp [leBytes, ih]

theorem Memory.wf_writeLE {m : Memory} (hm : m.wf = true) {a n : Nat} (v : Nat) (ha : a + n ≤ Config.addressSpace) :
    (m.writeLE a n v).wf = true := Memory.wf_writeBytes _ hm (by simpa using ha)

theorem Memory.read_writeLE_other (m : Memory) {a n b : Nat} (v : Nat) (h : b < a ∨ a + n ≤ b) :
    (m.writeLE a n v).read b = m.read b := Memory.read_writeBytes_other _ _ (by simpa using h)

/-- Little-endian read of bytes: what was written little-endian, reduced to the width (20_memory.md R72). -/
theorem Memory.readLE_writeLE {m : Memory} (hm : m.wf = true) {a n : Nat} (v : Nat) (ha : a + n ≤ Config.addressSpace) :
    (m.writeLE a n v).readLE a n = v % 256 ^ n := by
  induction n generalizing m a v with
  | zero => simp [Memory.readLE, Nat.mod_one]
  | succ n ih =>
    have h0 : (m.writeLE a (n + 1) v).read a = BitVec.ofNat 8 v := by
      rw [Memory.writeLE, leBytes, Memory.writeBytes, Memory.read_writeBytes_other _ _ (by simp),
        Memory.read_write_same hm]
    have hw := Memory.wf_write hm (a := a) (by omega) (BitVec.ofNat 8 v)
    have h1 : (m.writeLE a (n + 1) v).readLE (a + 1) n = v / 256 % 256 ^ n := ih hw (v / 256) (by omega)
    have hmod : v % 256 ^ (n + 1) = v % 256 + 256 * (v / 256 % 256 ^ n) := by
      rw [Nat.pow_succ', Nat.mod_mul]
    rw [Memory.readLE, h0, h1, hmod, BitVec.toNat_ofNat]

/-- A little-endian read is the bytes at the addresses. -/
theorem Memory.readLE_congr {m m' : Memory} {a n : Nat} (h : ∀ k, k < n → m.read (a + k) = m'.read (a + k)) :
    m.readLE a n = m'.readLE a n := by
  induction n generalizing a with
  | zero => rfl
  | succ n ih =>
    have h0 := h 0 (by omega)
    simp only [Nat.add_zero] at h0
    rw [Memory.readLE, Memory.readLE, h0, ih fun k hk => by
      have := h (k + 1) (by omega)
      rwa [show a + (k + 1) = a + 1 + k by omega] at this]

end Sys2Proof.Machine
end

