-- ==== Sys2Proof/Laws/PerInstr.lean ====
section
/-! SUPPORT. Statements about every command, proved command by command. -/

namespace Sys2Proof.Laws

/-- The word of a command: it is legal (30_encoding.md R105), and each field stands at its place in it (R100). -/
def LegalWord.Statement (i : Instr) : Prop := i.wellFormed = true ∧ CmdFields.ofWord (encode i) = i.fields

theorem LegalWord.nop : LegalWord.Statement .nop := ⟨by decide, by decide⟩
theorem LegalWord.pixYuv2rgb : LegalWord.Statement .pixYuv2rgb := ⟨by decide, by decide⟩
theorem LegalWord.pixPack565 : LegalWord.Statement .pixPack565 := ⟨by decide, by decide⟩
theorem LegalWord.pixUnpack565 : LegalWord.Statement .pixUnpack565 := ⟨by decide, by decide⟩
theorem LegalWord.pixCcm : LegalWord.Statement .pixCcm := ⟨by decide, by decide⟩
theorem LegalWord.pixGamma : LegalWord.Statement .pixGamma := ⟨by decide, by decide⟩
theorem LegalWord.ccmApplyRgb565 : LegalWord.Statement .ccmApplyRgb565 := ⟨by decide, by decide⟩
theorem LegalWord.ccmApplyBgr888 : LegalWord.Statement .ccmApplyBgr888 := ⟨by decide, by decide⟩
theorem LegalWord.ccmApplyArgb8888 : LegalWord.Statement .ccmApplyArgb8888 := ⟨by decide, by decide⟩
theorem LegalWord.gammaBuild : LegalWord.Statement .gammaBuild := ⟨by decide, by decide⟩
theorem LegalWord.gammaApplyRgb565 : LegalWord.Statement .gammaApplyRgb565 := ⟨by decide, by decide⟩
theorem LegalWord.gammaApplyBgr888 : LegalWord.Statement .gammaApplyBgr888 := ⟨by decide, by decide⟩
theorem LegalWord.gammaApplyArgb8888 : LegalWord.Statement .gammaApplyArgb8888 := ⟨by decide, by decide⟩
theorem LegalWord.debayerRggbBgr888 : LegalWord.Statement .debayerRggbBgr888 := ⟨by decide, by decide⟩
theorem LegalWord.debayerRggbRgb565 : LegalWord.Statement .debayerRggbRgb565 := ⟨by decide, by decide⟩
theorem LegalWord.debayerGrbgBgr888 : LegalWord.Statement .debayerGrbgBgr888 := ⟨by decide, by decide⟩
theorem LegalWord.debayerGrbgRgb565 : LegalWord.Statement .debayerGrbgRgb565 := ⟨by decide, by decide⟩
theorem LegalWord.debayerGbrgBgr888 : LegalWord.Statement .debayerGbrgBgr888 := ⟨by decide, by decide⟩
theorem LegalWord.debayerGbrgRgb565 : LegalWord.Statement .debayerGbrgRgb565 := ⟨by decide, by decide⟩
theorem LegalWord.debayerBggrBgr888 : LegalWord.Statement .debayerBggrBgr888 := ⟨by decide, by decide⟩
theorem LegalWord.debayerBggrRgb565 : LegalWord.Statement .debayerBggrRgb565 := ⟨by decide, by decide⟩
theorem LegalWord.convertBgr888 : LegalWord.Statement .convertBgr888 := ⟨by decide, by decide⟩
theorem LegalWord.convertI420 : LegalWord.Statement .convertI420 := ⟨by decide, by decide⟩
theorem LegalWord.convertYv12 : LegalWord.Statement .convertYv12 := ⟨by decide, by decide⟩
theorem LegalWord.convertI422 : LegalWord.Statement .convertI422 := ⟨by decide, by decide⟩
theorem LegalWord.convertI444 : LegalWord.Statement .convertI444 := ⟨by decide, by decide⟩
theorem LegalWord.convertI400 : LegalWord.Statement .convertI400 := ⟨by decide, by decide⟩
theorem LegalWord.convertNv12 : LegalWord.Statement .convertNv12 := ⟨by decide, by decide⟩
theorem LegalWord.convertNv21 : LegalWord.Statement .convertNv21 := ⟨by decide, by decide⟩
theorem LegalWord.convertYuy2 : LegalWord.Statement .convertYuy2 := ⟨by decide, by decide⟩
theorem LegalWord.convertUyvy : LegalWord.Statement .convertUyvy := ⟨by decide, by decide⟩
theorem LegalWord.present : LegalWord.Statement .present := ⟨by decide, by decide⟩
theorem LegalWord.beginFrame : LegalWord.Statement .beginFrame := ⟨by decide, by decide⟩
theorem LegalWord.drawRgb565 : LegalWord.Statement .drawRgb565 := ⟨by decide, by decide⟩
theorem LegalWord.drawBgr888 : LegalWord.Statement .drawBgr888 := ⟨by decide, by decide⟩
theorem LegalWord.drawI420 : LegalWord.Statement .drawI420 := ⟨by decide, by decide⟩
theorem LegalWord.drawYv12 : LegalWord.Statement .drawYv12 := ⟨by decide, by decide⟩
theorem LegalWord.drawI422 : LegalWord.Statement .drawI422 := ⟨by decide, by decide⟩
theorem LegalWord.drawI444 : LegalWord.Statement .drawI444 := ⟨by decide, by decide⟩
theorem LegalWord.drawI400 : LegalWord.Statement .drawI400 := ⟨by decide, by decide⟩
theorem LegalWord.drawNv12 : LegalWord.Statement .drawNv12 := ⟨by decide, by decide⟩
theorem LegalWord.drawNv21 : LegalWord.Statement .drawNv21 := ⟨by decide, by decide⟩
theorem LegalWord.drawYuy2 : LegalWord.Statement .drawYuy2 := ⟨by decide, by decide⟩
theorem LegalWord.drawUyvy : LegalWord.Statement .drawUyvy := ⟨by decide, by decide⟩
theorem LegalWord.endFrame : LegalWord.Statement .endFrame := ⟨by decide, by decide⟩

/-- Every command's word is legal and holds its fields. -/
theorem legalWord (i : Instr) : LegalWord.Statement i := by
  cases i
  · exact LegalWord.nop
  · exact LegalWord.pixYuv2rgb
  · exact LegalWord.pixPack565
  · exact LegalWord.pixUnpack565
  · exact LegalWord.pixCcm
  · exact LegalWord.pixGamma
  · exact LegalWord.ccmApplyRgb565
  · exact LegalWord.ccmApplyBgr888
  · exact LegalWord.ccmApplyArgb8888
  · exact LegalWord.gammaBuild
  · exact LegalWord.gammaApplyRgb565
  · exact LegalWord.gammaApplyBgr888
  · exact LegalWord.gammaApplyArgb8888
  · exact LegalWord.debayerRggbBgr888
  · exact LegalWord.debayerRggbRgb565
  · exact LegalWord.debayerGrbgBgr888
  · exact LegalWord.debayerGrbgRgb565
  · exact LegalWord.debayerGbrgBgr888
  · exact LegalWord.debayerGbrgRgb565
  · exact LegalWord.debayerBggrBgr888
  · exact LegalWord.debayerBggrRgb565
  · exact LegalWord.convertBgr888
  · exact LegalWord.convertI420
  · exact LegalWord.convertYv12
  · exact LegalWord.convertI422
  · exact LegalWord.convertI444
  · exact LegalWord.convertI400
  · exact LegalWord.convertNv12
  · exact LegalWord.convertNv21
  · exact LegalWord.convertYuy2
  · exact LegalWord.convertUyvy
  · exact LegalWord.present
  · exact LegalWord.beginFrame
  · exact LegalWord.drawRgb565
  · exact LegalWord.drawBgr888
  · exact LegalWord.drawI420
  · exact LegalWord.drawYv12
  · exact LegalWord.drawI422
  · exact LegalWord.drawI444
  · exact LegalWord.drawI400
  · exact LegalWord.drawNv12
  · exact LegalWord.drawNv21
  · exact LegalWord.drawYuy2
  · exact LegalWord.drawUyvy
  · exact LegalWord.endFrame

end Sys2Proof.Laws
end

