-- ==== Sys2Proof/Laws/Stores.lean ====
section
/-! SUPPORT. The laws of a command's stores: performed whole (`applyStores`) or in part (`State.stopStores`), they keep the
canonical form, leave every byte they do not cover alone, and give a covered byte the value its stores agree on. -/

namespace Sys2Proof.Machine

/-- The store covers the address. -/
def Store.covers (st : Store) (a : Nat) : Prop := st.addr ≤ a ∧ a < st.addr + st.bytes.length

/-- Every store lies inside the memory space. -/
def storesInSpace (stores : List Store) : Prop := ∀ st ∈ stores, st.addr + st.bytes.length ≤ Config.addressSpace

theorem storesInSpace_cons {st : Store} {rest : List Store} :
    storesInSpace (st :: rest) ↔ st.addr + st.bytes.length ≤ Config.addressSpace ∧ storesInSpace rest := by
  simp [storesInSpace]

theorem applyStores_wf (stores : List Store) {m : Memory} (hm : m.wf = true) (h : storesInSpace stores) :
    (applyStores stores m).wf = true := by
  induction stores generalizing m with
  | nil => exact hm
  | cons st rest ih =>
    obtain ⟨h1, h2⟩ := storesInSpace_cons.1 h
    exact ih (Memory.wf_writeBytes _ hm h1) h2

theorem applyStores_read_other (stores : List Store) (m : Memory) {a : Nat} (h : ∀ st ∈ stores, ¬ st.covers a) :
    (applyStores stores m).read a = m.read a := by
  induction stores generalizing m with
  | nil => rfl
  | cons st rest ih =>
    have h0 := h st (by simp)
    rw [applyStores, ih _ fun s hs => h s (by simp [hs])]
    exact Memory.read_writeBytes_other _ _ (by unfold Store.covers at h0; omega)

/-- A byte on which all its stores agree holds that value after them, if it held it before or some store covers it. -/
theorem applyStores_read_agreed (stores : List Store) {m : Memory} (hm : m.wf = true) (hin : storesInSpace stores)
    {a : Nat} {b : Byte}
    (hagree : ∀ st ∈ stores, ∀ k (hk : k < st.bytes.length), st.addr + k = a → st.bytes[k] = b)
    (h : m.read a = b ∨ ∃ st ∈ stores, st.covers a) : (applyStores stores m).read a = b := by
  induction stores generalizing m with
  | nil =>
    rcases h with h | ⟨st, hst, -⟩
    · exact h
    · simp at hst
  | cons st rest ih =>
    obtain ⟨h1, h2⟩ := storesInSpace_cons.1 hin
    refine ih (Memory.wf_writeBytes _ hm h1) h2 (fun s hs => hagree s (by simp [hs])) ?_
    by_cases hc : st.covers a
    · obtain ⟨hle, hlt⟩ := hc
      obtain ⟨k, rfl⟩ := Nat.exists_eq_add_of_le hle
      left
      rw [Memory.read_writeBytes_get _ hm h1 (by omega)]
      exact hagree st (by simp) k (by omega) rfl
    · rcases h with h | ⟨s, hs, hcov⟩
      · left
        rw [Memory.read_writeBytes_other _ _ (by unfold Store.covers at hc; omega)]
        exact h
      · rcases List.mem_cons.1 hs with rfl | hs
        · exact absurd hcov hc
        · exact .inr ⟨s, hs, hcov⟩

theorem writeSome_wf (n : Nat) (bs : List Byte) {m : Memory} (hm : m.wf = true) {a : Nat}
    (ha : a + bs.length ≤ Config.addressSpace) : (writeSome n m a bs).wf = true := by
  induction bs generalizing m a with
  | nil => exact hm
  | cons v rest ih =>
    simp only [List.length_cons] at ha
    refine ih ?_ (by omega)
    split
    · exact Memory.wf_write hm (by omega) v
    · exact hm

theorem writeSome_read_other (n : Nat) (bs : List Byte) (m : Memory) {a b : Nat} (h : b < a ∨ a + bs.length ≤ b) :
    (writeSome n m a bs).read b = m.read b := by
  induction bs generalizing m a with
  | nil => rfl
  | cons v rest ih =>
    simp only [List.length_cons] at h
    rw [writeSome, ih _ (by omega)]
    split
    · exact Memory.read_write_other _ _ (by omega)
    · rfl

/-- A partly performed store gives each of its bytes its old or its new value. -/
theorem writeSome_read_get (n : Nat) (bs : List Byte) {m : Memory} (hm : m.wf = true) {a : Nat}
    (ha : a + bs.length ≤ Config.addressSpace) {k : Nat} (hk : k < bs.length) :
    (writeSome n m a bs).read (a + k) = m.read (a + k) ∨ (writeSome n m a bs).read (a + k) = bs[k] := by
  induction bs generalizing m a k with
  | nil => simp at hk
  | cons v rest ih =>
    simp only [List.length_cons] at ha hk
    cases k with
    | zero =>
      rw [writeSome, writeSome_read_other _ _ _ (by omega)]
      split
      · right; exact Memory.read_write_same hm a v
      · left; rfl
    | succ k =>
      have hw : (if Config.writePerformed n a then m.write a v else m).wf = true := by
        split
        · exact Memory.wf_write hm (by omega) v
        · exact hm
      have := ih hw (a := a + 1) (by omega) (k := k) (by omega)
      rw [show a + (k + 1) = a + 1 + k by omega, writeSome]
      rcases this with h | h
      · left
        rw [h]
        split
        · exact Memory.read_write_other _ _ (by omega)
        · rfl
      · right; simpa using h

/-- What a stop does to memory, store by store. -/
theorem stopStores_mem (s : State) (stores : List Store) :
    (s.stopStores stores).mem = State.stopStores.go s stores s.mem := rfl

theorem stopGo_wf (s : State) (stores : List Store) {m : Memory} (hm : m.wf = true) (h : storesInSpace stores) :
    (State.stopStores.go s stores m).wf = true := by
  induction stores generalizing m with
  | nil => exact hm
  | cons st rest ih =>
    obtain ⟨h1, h2⟩ := storesInSpace_cons.1 h
    refine ih ?_ h2
    split
    · exact hm
    · exact writeSome_wf _ _ hm h1

theorem stopGo_read_other (s : State) (stores : List Store) (m : Memory) {a : Nat}
    (h : ∀ st ∈ stores, ¬ st.covers a) : (State.stopStores.go s stores m).read a = m.read a := by
  induction stores generalizing m with
  | nil => rfl
  | cons st rest ih =>
    have h0 := h st (by simp)
    rw [State.stopStores.go, ih _ fun s hs => h s (by simp [hs])]
    split
    · rfl
    · exact writeSome_read_other _ _ _ (by unfold Store.covers at h0; omega)

/-- After a stop a byte on which its stores agree holds its old or its new value (60_exceptions.md R275). -/
theorem stopGo_read_agreed (s : State) (stores : List Store) {m : Memory} (hm : m.wf = true) (hin : storesInSpace stores)
    {a : Nat} {b : Byte}
    (hagree : ∀ st ∈ stores, ∀ k (hk : k < st.bytes.length), st.addr + k = a → st.bytes[k] = b) :
    (State.stopStores.go s stores m).read a = m.read a ∨ (State.stopStores.go s stores m).read a = b := by
  induction stores generalizing m with
  | nil => exact .inl rfl
  | cons st rest ih =>
    obtain ⟨h1, h2⟩ := storesInSpace_cons.1 hin
    have hstep : (if s.busErrorOn st.access then m else writeSome s.freeCount m st.addr st.bytes).read a = m.read a ∨
        (if s.busErrorOn st.access then m else writeSome s.freeCount m st.addr st.bytes).read a = b := by
      split
      · exact .inl rfl
      · by_cases hc : st.covers a
        · obtain ⟨hle, hlt⟩ := hc
          obtain ⟨k, rfl⟩ := Nat.exists_eq_add_of_le hle
          rw [← hagree st (by simp) k (by omega) rfl]
          exact writeSome_read_get _ _ hm h1 (by omega)
        · exact .inl (writeSome_read_other _ _ _ (by unfold Store.covers at hc; omega))
    have hw : (if s.busErrorOn st.access then m else writeSome s.freeCount m st.addr st.bytes).wf = true := by
      split
      · exact hm
      · exact writeSome_wf _ _ hm h1
    rw [State.stopStores.go]
    rcases ih hw h2 (fun s hs => hagree s (by simp [hs])) with h | h
    · rw [h]; exact hstep
    · exact .inr h

/-- A byte whose stores all get a bus error is left alone (60_exceptions.md R276). -/
theorem stopGo_read_failing (s : State) (stores : List Store) (m : Memory) {a : Nat}
    (h : ∀ st ∈ stores, st.covers a → s.busErrorOn st.access = true) :
    (State.stopStores.go s stores m).read a = m.read a := by
  induction stores generalizing m with
  | nil => rfl
  | cons st rest ih =>
    have h0 := h st (by simp)
    rw [State.stopStores.go, ih _ fun s hs => h s (by simp [hs])]
    split
    · rfl
    · rename_i hn
      exact writeSome_read_other _ _ _ (by
        by_contra hc
        exact hn (h0 (by unfold Store.covers; omega)))

/-- A stop keeps the canonical form. -/
theorem stopStores_wf (s : State) {stores : List Store} (hm : s.mem.wf = true) (h : storesInSpace stores) :
    (s.stopStores stores).mem.wf = true := stopGo_wf s stores hm h

end Sys2Proof.Machine
end

