-- ==== Sys2Proof/Laws/Pixels.lean ====
section
/-! SUPPORT. The stores of an image: one pixel's bytes go to its own addresses (20_memory.md R74, R82), distinct pixels never
share an address where the pitch covers a row (check 14), and all addresses lie inside the plane's range (R83). -/

namespace Sys2Proof.Machine

/-- The store holds a piece of `bytes` laid out from address `a`. -/
def Store.pieceOf (st : Store) (a : Nat) (bytes : List Byte) : Prop :=
  a ≤ st.addr ∧ st.addr + st.bytes.length ≤ a + bytes.length ∧
    ∀ k (hk : k < st.bytes.length), bytes[st.addr + k - a]? = some st.bytes[k]

theorem byteStores_piece {bytes : List Byte} {a : Nat} {st : Store} (h : st ∈ byteStores a bytes) :
    st.pieceOf a bytes := by
  induction bytes generalizing a with
  | nil => simp [byteStores] at h
  | cons b rest ih =>
    rcases List.mem_cons.1 h with rfl | h
    · refine ⟨le_rfl, by simp, fun k hk => ?_⟩
      simp only [List.length_singleton, Nat.lt_one_iff] at hk
      subst hk
      simp
    · obtain ⟨h1, h2, h3⟩ := ih h
      refine ⟨by omega, by simp only [List.length_cons]; omega, fun k hk => ?_⟩
      have := h3 k hk
      rw [show st.addr + k - a = (st.addr + k - (a + 1)) + 1 by omega, List.getElem?_cons_succ]
      exact this

theorem byteStores_cover {bytes : List Byte} {a k : Nat} (hk : k < bytes.length) :
    ∃ st ∈ byteStores a bytes, st.covers (a + k) := by
  induction bytes generalizing a k with
  | nil => simp at hk
  | cons b rest ih =>
    cases k with
    | zero => exact ⟨⟨a, [b]⟩, by simp [byteStores], by simp [Store.covers]⟩
    | succ k =>
      obtain ⟨st, hst, hc⟩ := ih (a := a + 1) (k := k) (by simpa using hk)
      exact ⟨st, by simp [byteStores, hst], by rwa [show a + (k + 1) = a + 1 + k by omega]⟩

theorem alignedStore_piece {bytes : List Byte} {a : Nat} {st : Store} (h : st ∈ alignedStore a bytes) :
    st.pieceOf a bytes := by
  unfold alignedStore at h
  split at h
  · rw [List.mem_singleton] at h
    subst h
    exact ⟨le_rfl, le_rfl, fun k hk => by simp [List.getElem?_eq_getElem hk]⟩
  · exact byteStores_piece h

theorem alignedStore_cover {bytes : List Byte} {a k : Nat} (hk : k < bytes.length) :
    ∃ st ∈ alignedStore a bytes, st.covers (a + k) := by
  unfold alignedStore
  split
  · exact ⟨⟨a, bytes⟩, by simp, by simp only [Store.covers]; omega⟩
  · exact byteStores_cover hk

theorem RgbFormat.stores_piece {f : RgbFormat} {bytes : List Byte} {a : Nat} {st : Store} (h : st ∈ f.stores a bytes) :
    st.pieceOf a bytes := by
  cases f with
  | rgb565 => exact alignedStore_piece h
  | bgr888 => exact byteStores_piece h
  | argb8888 => exact alignedStore_piece h

theorem RgbFormat.stores_cover (f : RgbFormat) {bytes : List Byte} {a k : Nat} (hk : k < bytes.length) :
    ∃ st ∈ f.stores a bytes, st.covers (a + k) := by
  cases f with
  | rgb565 => exact alignedStore_cover hk
  | bgr888 => exact byteStores_cover hk
  | argb8888 => exact alignedStore_cover hk

section Image

variable {f : RgbFormat} {L : List (Nat × Nat)} {addr : Nat × Nat → Nat} {bytes : Nat × Nat → List Byte} {n : Nat}

/-- The stores of an image stay inside the memory space when its pixels do. -/
theorem imageStores_inSpace (hlen : ∀ c ∈ L, (bytes c).length = n)
    (hspace : ∀ c ∈ L, addr c + n ≤ Config.addressSpace) :
    storesInSpace (L.flatMap fun c => f.stores (addr c) (bytes c)) := by
  intro st hst
  obtain ⟨c, hc, hst⟩ := List.mem_flatMap.1 hst
  obtain ⟨-, h2, -⟩ := f.stores_piece hst
  have := hspace c hc
  have := hlen c hc
  omega

/-- A byte outside every pixel is left alone. -/
theorem imageStores_read_other (m : Memory) (hlen : ∀ c ∈ L, (bytes c).length = n) {a : Nat}
    (ha : ∀ c ∈ L, ∀ k, k < n → a ≠ addr c + k) :
    (applyStores (L.flatMap fun c => f.stores (addr c) (bytes c)) m).read a = m.read a := by
  refine applyStores_read_other _ _ fun st hst hcov => ?_
  obtain ⟨c, hc, hst⟩ := List.mem_flatMap.1 hst
  obtain ⟨h1, h2, -⟩ := f.stores_piece hst
  have hn := hlen c hc
  unfold Store.covers at hcov
  exact ha c hc (a - addr c) (by omega) (by omega)

/-- What the stores of an image assign to byte k of pixel c, where distinct pixels share no address. -/
theorem imageStores_agree (hlen : ∀ c ∈ L, (bytes c).length = n)
    (hsep : ∀ c ∈ L, ∀ d ∈ L, ∀ j k, j < n → k < n → addr c + j = addr d + k → c = d ∧ j = k)
    {c : Nat × Nat} (hc : c ∈ L) {k : Nat} (hk : k < (bytes c).length) :
    ∀ st ∈ L.flatMap (fun c => f.stores (addr c) (bytes c)),
      ∀ j (hj : j < st.bytes.length), st.addr + j = addr c + k → st.bytes[j] = (bytes c)[k] := by
  intro st hst j hj heq
  obtain ⟨d, hd, hst⟩ := List.mem_flatMap.1 hst
  obtain ⟨h1, h2, h3⟩ := f.stores_piece hst
  have hn := hlen c hc
  have hm := hlen d hd
  obtain ⟨rfl, hjk⟩ := hsep d hd c hc (st.addr + j - addr d) k (by omega) (by omega) (by omega)
  have := h3 j hj
  rw [hjk, List.getElem?_eq_getElem hk] at this
  exact (Option.some.inj this).symm

/-- Byte k of a pixel holds what the pixel's bytes say. -/
theorem imageStores_read {m : Memory} (hm : m.wf = true) (hlen : ∀ c ∈ L, (bytes c).length = n)
    (hspace : ∀ c ∈ L, addr c + n ≤ Config.addressSpace)
    (hsep : ∀ c ∈ L, ∀ d ∈ L, ∀ j k, j < n → k < n → addr c + j = addr d + k → c = d ∧ j = k)
    {c : Nat × Nat} (hc : c ∈ L) {k : Nat} (hk : k < (bytes c).length) :
    (applyStores (L.flatMap fun c => f.stores (addr c) (bytes c)) m).read (addr c + k) = (bytes c)[k] := by
  refine applyStores_read_agreed _ hm (imageStores_inSpace hlen hspace) (imageStores_agree hlen hsep hc hk) (.inr ?_)
  obtain ⟨st, hst, hcov⟩ := f.stores_cover (a := addr c) hk
  exact ⟨st, List.mem_flatMap.2 ⟨c, hc, hst⟩, hcov⟩

end Image

/-- Every address of a plane's elements lies in its range (20_memory.md R83). -/
theorem Plane.addr_le_last {p : Plane} {row off : Nat} (hr : row < p.rows) (ho : off < p.rowBytes) :
    p.base + row * p.pitch + off ≤ p.last := by
  have : row * p.pitch ≤ (p.rows - 1) * p.pitch := Nat.mul_le_mul_right _ (by omega)
  unfold Plane.last
  omega

/-- Distinct elements of a plane have distinct addresses when the pitch covers a row (check 14). -/
theorem row_offset_unique {pitch row row' off off' : Nat} (h : off < pitch) (h' : off' < pitch)
    (heq : row * pitch + off = row' * pitch + off') : row = row' ∧ off = off' := by
  have hp : 0 < pitch := by omega
  have h1 : (off + pitch * row) / pitch = (off' + pitch * row') / pitch := by
    rw [Nat.mul_comm pitch, Nat.mul_comm pitch, Nat.add_comm off, Nat.add_comm off', heq]
  rw [Nat.add_mul_div_left _ _ hp, Nat.add_mul_div_left _ _ hp, Nat.div_eq_of_lt h, Nat.div_eq_of_lt h'] at h1
  have hrow : row = row' := by omega
  subst hrow
  exact ⟨rfl, by omega⟩

/-- Distinct pixels of a surface share no byte when the pitch covers a row of `bpp`-byte pixels (check 14). -/
theorem Surface.addr_unique {d : Surface} {bpp x y x' y' j k : Nat} (hp : d.width * bpp ≤ d.pitch) (hx : x < d.width)
    (hx' : x' < d.width) (hj : j < bpp) (hk : k < bpp) (heq : d.addr bpp x y + j = d.addr bpp x' y' + k) :
    x = x' ∧ y = y' ∧ j = k := by
  have lt (z i : Nat) (hz : z < d.width) (hi : i < bpp) : bpp * z + i < d.pitch := by
    have : bpp * (z + 1) ≤ bpp * d.width := Nat.mul_le_mul_left _ hz
    rw [Nat.mul_add, Nat.mul_one, Nat.mul_comm bpp d.width] at this
    omega
  unfold Surface.addr at heq
  obtain ⟨h1, h2⟩ := row_offset_unique (lt x j hx hj) (lt x' k hx' hk) (row := y) (row' := y') (by omega)
  obtain ⟨h3, h4⟩ := row_offset_unique (pitch := bpp) hj hk (row := x) (row' := x')
    (by rw [Nat.mul_comm x, Nat.mul_comm x']; exact h2)
  exact ⟨h3, h1, h4⟩

/-- A pixel of a surface whose plane ends inside the memory space lies inside it. -/
theorem Surface.addr_inSpace {d : Surface} {bpp x y : Nat} (h : (d.plane bpp).last < Config.addressSpace)
    (hb : 0 < bpp) (hx : x < d.width) (hy : y < d.height) : d.addr bpp x y + bpp ≤ Config.addressSpace := by
  have hm : bpp * (x + 1) ≤ bpp * d.width := Nat.mul_le_mul_left _ hx
  rw [Nat.mul_add, Nat.mul_one] at hm
  have := (d.plane bpp).addr_le_last (row := y) (off := bpp * x + (bpp - 1)) hy
    (by show _ < d.width * bpp; rw [Nat.mul_comm d.width]; omega)
  simp only [Surface.plane] at this
  unfold Surface.addr
  unfold Surface.plane at h
  omega

/-- The coordinates of an image. -/
theorem mem_pixels {w h : Nat} {c : Nat × Nat} : c ∈ pixels w h ↔ c.1 < w ∧ c.2 < h := by
  obtain ⟨x, y⟩ := c
  simp [pixels, and_comm]

/-- The coordinates that the clip loop keeps (43_format_converter.md R200). -/
theorem mem_clippedPixels {p : Params} {dst : Surface} {c : Nat × Nat} :
    c ∈ clippedPixels p dst ↔
      (c.1 < p.srcW ∧ c.2 < p.srcH) ∧ p.dstX + c.1 < dst.width ∧ p.dstY + c.2 < dst.height := by
  simp [clippedPixels, mem_pixels]

end Sys2Proof.Machine
end

