-- ==== Sys2Proof/Laws/State.lean ====
section
/-! SUPPORT. For every named update of the state, each field after it: by rfl, so that no proof unfolds a record update. -/

namespace Sys2Proof.Machine

variable (s : State)

/-! Setting IRQ_STATUS bits. -/
@[simp] theorem State.raiseIrq_params (bits : BitVec 3) : (s.raiseIrq bits).params = s.params := rfl
@[simp] theorem State.raiseIrq_phase (bits : BitVec 3) : (s.raiseIrq bits).phase = s.phase := rfl
@[simp] theorem State.raiseIrq_lutValid (bits : BitVec 3) : (s.raiseIrq bits).lutValid = s.lutValid := rfl
@[simp] theorem State.raiseIrq_inFrame (bits : BitVec 3) : (s.raiseIrq bits).inFrame = s.inFrame := rfl
@[simp] theorem State.raiseIrq_errCode (bits : BitVec 3) : (s.raiseIrq bits).errCode = s.errCode := rfl
@[simp] theorem State.raiseIrq_irqStatus (bits : BitVec 3) : (s.raiseIrq bits).irqStatus = s.irqStatus ||| bits := rfl
@[simp] theorem State.raiseIrq_irqEn (bits : BitVec 3) : (s.raiseIrq bits).irqEn = s.irqEn := rfl
@[simp] theorem State.raiseIrq_errOp (bits : BitVec 3) : (s.raiseIrq bits).errOp = s.errOp := rfl
@[simp] theorem State.raiseIrq_errCheck (bits : BitVec 3) : (s.raiseIrq bits).errCheck = s.errCheck := rfl
@[simp] theorem State.raiseIrq_errPlane (bits : BitVec 3) : (s.raiseIrq bits).errPlane = s.errPlane := rfl
@[simp] theorem State.raiseIrq_errAddr (bits : BitVec 3) : (s.raiseIrq bits).errAddr = s.errAddr := rfl
@[simp] theorem State.raiseIrq_pixOut (bits : BitVec 3) : (s.raiseIrq bits).pixOut = s.pixOut := rfl
@[simp] theorem State.raiseIrq_activeIdx (bits : BitVec 3) : (s.raiseIrq bits).activeIdx = s.activeIdx := rfl
@[simp] theorem State.raiseIrq_lutRam (bits : BitVec 3) : (s.raiseIrq bits).lutRam = s.lutRam := rfl
@[simp] theorem State.raiseIrq_curCmd (bits : BitVec 3) : (s.raiseIrq bits).curCmd = s.curCmd := rfl
@[simp] theorem State.raiseIrq_presentTarget (bits : BitVec 3) :
    (s.raiseIrq bits).presentTarget = s.presentTarget := rfl
@[simp] theorem State.raiseIrq_dispReq (bits : BitVec 3) : (s.raiseIrq bits).dispReq = s.dispReq := rfl
@[simp] theorem State.raiseIrq_dispAddr (bits : BitVec 3) : (s.raiseIrq bits).dispAddr = s.dispAddr := rfl
@[simp] theorem State.raiseIrq_scanBase (bits : BitVec 3) : (s.raiseIrq bits).scanBase = s.scanBase := rfl
@[simp] theorem State.raiseIrq_mem (bits : BitVec 3) : (s.raiseIrq bits).mem = s.mem := rfl
@[simp] theorem State.raiseIrq_engineBase (bits : BitVec 3) : (s.raiseIrq bits).engineBase = s.engineBase := rfl
@[simp] theorem State.raiseIrq_busErrors (bits : BitVec 3) : (s.raiseIrq bits).busErrors = s.busErrors := rfl
@[simp] theorem State.raiseIrq_inputs (bits : BitVec 3) : (s.raiseIrq bits).inputs = s.inputs := rfl
@[simp] theorem State.raiseIrq_hostData (bits : BitVec 3) : (s.raiseIrq bits).hostData = s.hostData := rfl
@[simp] theorem State.raiseIrq_freeCount (bits : BitVec 3) : (s.raiseIrq bits).freeCount = s.freeCount := rfl

/-! Error entry. -/
@[simp] theorem State.enterFailed_params (code : ErrCode) (check : Byte) (plane : BitVec 2) (addr : Word) :
    (s.enterFailed code check plane addr).params = s.params := rfl
@[simp] theorem State.enterFailed_phase (code : ErrCode) (check : Byte) (plane : BitVec 2) (addr : Word) :
    (s.enterFailed code check plane addr).phase = .failed := rfl
@[simp] theorem State.enterFailed_lutValid (code : ErrCode) (check : Byte) (plane : BitVec 2) (addr : Word) :
    (s.enterFailed code check plane addr).lutValid = s.lutValid := rfl
@[simp] theorem State.enterFailed_inFrame (code : ErrCode) (check : Byte) (plane : BitVec 2) (addr : Word) :
    (s.enterFailed code check plane addr).inFrame = s.inFrame := rfl
@[simp] theorem State.enterFailed_errCode (code : ErrCode) (check : Byte) (plane : BitVec 2) (addr : Word) :
    (s.enterFailed code check plane addr).errCode = code := rfl
@[simp] theorem State.enterFailed_irqStatus (code : ErrCode) (check : Byte) (plane : BitVec 2) (addr : Word) :
    (s.enterFailed code check plane addr).irqStatus = s.irqStatus ||| irqError := rfl
@[simp] theorem State.enterFailed_irqEn (code : ErrCode) (check : Byte) (plane : BitVec 2) (addr : Word) :
    (s.enterFailed code check plane addr).irqEn = s.irqEn := rfl
@[simp] theorem State.enterFailed_errOp (code : ErrCode) (check : Byte) (plane : BitVec 2) (addr : Word) :
    (s.enterFailed code check plane addr).errOp = s.runningOp := rfl
@[simp] theorem State.enterFailed_errCheck (code : ErrCode) (check : Byte) (plane : BitVec 2) (addr : Word) :
    (s.enterFailed code check plane addr).errCheck = check := rfl
@[simp] theorem State.enterFailed_errPlane (code : ErrCode) (check : Byte) (plane : BitVec 2) (addr : Word) :
    (s.enterFailed code check plane addr).errPlane = plane := rfl
@[simp] theorem State.enterFailed_errAddr (code : ErrCode) (check : Byte) (plane : BitVec 2) (addr : Word) :
    (s.enterFailed code check plane addr).errAddr = addr := rfl
@[simp] theorem State.enterFailed_pixOut (code : ErrCode) (check : Byte) (plane : BitVec 2) (addr : Word) :
    (s.enterFailed code check plane addr).pixOut = s.pixOut := rfl
@[simp] theorem State.enterFailed_activeIdx (code : ErrCode) (check : Byte) (plane : BitVec 2) (addr : Word) :
    (s.enterFailed code check plane addr).activeIdx = s.activeIdx := rfl
@[simp] theorem State.enterFailed_lutRam (code : ErrCode) (check : Byte) (plane : BitVec 2) (addr : Word) :
    (s.enterFailed code check plane addr).lutRam = s.lutRam := rfl
@[simp] theorem State.enterFailed_curCmd (code : ErrCode) (check : Byte) (plane : BitVec 2) (addr : Word) :
    (s.enterFailed code check plane addr).curCmd = s.curCmd := rfl
@[simp] theorem State.enterFailed_presentTarget (code : ErrCode) (check : Byte) (plane : BitVec 2) (addr : Word) :
    (s.enterFailed code check plane addr).presentTarget = s.presentTarget := rfl
@[simp] theorem State.enterFailed_dispReq (code : ErrCode) (check : Byte) (plane : BitVec 2) (addr : Word) :
    (s.enterFailed code check plane addr).dispReq = false := rfl
@[simp] theorem State.enterFailed_dispAddr (code : ErrCode) (check : Byte) (plane : BitVec 2) (addr : Word) :
    (s.enterFailed code check plane addr).dispAddr = 0 := rfl
@[simp] theorem State.enterFailed_scanBase (code : ErrCode) (check : Byte) (plane : BitVec 2) (addr : Word) :
    (s.enterFailed code check plane addr).scanBase = s.scanBase := rfl
@[simp] theorem State.enterFailed_mem (code : ErrCode) (check : Byte) (plane : BitVec 2) (addr : Word) :
    (s.enterFailed code check plane addr).mem = s.mem := rfl
@[simp] theorem State.enterFailed_engineBase (code : ErrCode) (check : Byte) (plane : BitVec 2) (addr : Word) :
    (s.enterFailed code check plane addr).engineBase = s.engineBase := rfl
@[simp] theorem State.enterFailed_busErrors (code : ErrCode) (check : Byte) (plane : BitVec 2) (addr : Word) :
    (s.enterFailed code check plane addr).busErrors = s.busErrors := rfl
@[simp] theorem State.enterFailed_inputs (code : ErrCode) (check : Byte) (plane : BitVec 2) (addr : Word) :
    (s.enterFailed code check plane addr).inputs = s.inputs := rfl
@[simp] theorem State.enterFailed_hostData (code : ErrCode) (check : Byte) (plane : BitVec 2) (addr : Word) :
    (s.enterFailed code check plane addr).hostData = s.hostData := rfl
@[simp] theorem State.enterFailed_freeCount (code : ErrCode) (check : Byte) (plane : BitVec 2) (addr : Word) :
    (s.enterFailed code check plane addr).freeCount = s.freeCount := rfl

/-! Completion. -/
@[simp] theorem complete_params : (complete s).params = s.params := rfl
@[simp] theorem complete_phase : (complete s).phase = .idle := rfl
@[simp] theorem complete_lutValid : (complete s).lutValid = s.lutValid := rfl
@[simp] theorem complete_inFrame : (complete s).inFrame = s.inFrame := rfl
@[simp] theorem complete_errCode : (complete s).errCode = s.errCode := rfl
@[simp] theorem complete_irqStatus : (complete s).irqStatus = s.irqStatus ||| irqDone := rfl
@[simp] theorem complete_irqEn : (complete s).irqEn = s.irqEn := rfl
@[simp] theorem complete_errOp : (complete s).errOp = s.errOp := rfl
@[simp] theorem complete_errCheck : (complete s).errCheck = s.errCheck := rfl
@[simp] theorem complete_errPlane : (complete s).errPlane = s.errPlane := rfl
@[simp] theorem complete_errAddr : (complete s).errAddr = s.errAddr := rfl
@[simp] theorem complete_pixOut : (complete s).pixOut = s.pixOut := rfl
@[simp] theorem complete_activeIdx : (complete s).activeIdx = s.activeIdx := rfl
@[simp] theorem complete_lutRam : (complete s).lutRam = s.lutRam := rfl
@[simp] theorem complete_curCmd : (complete s).curCmd = s.curCmd := rfl
@[simp] theorem complete_presentTarget : (complete s).presentTarget = s.presentTarget := rfl
@[simp] theorem complete_dispReq : (complete s).dispReq = s.dispReq := rfl
@[simp] theorem complete_dispAddr : (complete s).dispAddr = s.dispAddr := rfl
@[simp] theorem complete_scanBase : (complete s).scanBase = s.scanBase := rfl
@[simp] theorem complete_mem : (complete s).mem = s.mem := rfl
@[simp] theorem complete_engineBase : (complete s).engineBase = s.engineBase := rfl
@[simp] theorem complete_busErrors : (complete s).busErrors = s.busErrors := rfl
@[simp] theorem complete_inputs : (complete s).inputs = s.inputs := rfl
@[simp] theorem complete_hostData : (complete s).hostData = s.hostData := rfl
@[simp] theorem complete_freeCount : (complete s).freeCount = s.freeCount := rfl

/-! Building the gamma table. -/
@[simp] theorem State.buildLut_params : s.buildLut.params = s.params := rfl
@[simp] theorem State.buildLut_phase : s.buildLut.phase = s.phase := rfl
@[simp] theorem State.buildLut_lutValid : s.buildLut.lutValid = true := rfl
@[simp] theorem State.buildLut_inFrame : s.buildLut.inFrame = s.inFrame := rfl
@[simp] theorem State.buildLut_errCode : s.buildLut.errCode = s.errCode := rfl
@[simp] theorem State.buildLut_irqStatus : s.buildLut.irqStatus = s.irqStatus := rfl
@[simp] theorem State.buildLut_irqEn : s.buildLut.irqEn = s.irqEn := rfl
@[simp] theorem State.buildLut_errOp : s.buildLut.errOp = s.errOp := rfl
@[simp] theorem State.buildLut_errCheck : s.buildLut.errCheck = s.errCheck := rfl
@[simp] theorem State.buildLut_errPlane : s.buildLut.errPlane = s.errPlane := rfl
@[simp] theorem State.buildLut_errAddr : s.buildLut.errAddr = s.errAddr := rfl
@[simp] theorem State.buildLut_pixOut : s.buildLut.pixOut = s.pixOut := rfl
@[simp] theorem State.buildLut_activeIdx : s.buildLut.activeIdx = s.activeIdx := rfl
@[simp] theorem State.buildLut_lutRam : s.buildLut.lutRam = gammaTable := rfl
@[simp] theorem State.buildLut_curCmd : s.buildLut.curCmd = s.curCmd := rfl
@[simp] theorem State.buildLut_presentTarget : s.buildLut.presentTarget = s.presentTarget := rfl
@[simp] theorem State.buildLut_dispReq : s.buildLut.dispReq = s.dispReq := rfl
@[simp] theorem State.buildLut_dispAddr : s.buildLut.dispAddr = s.dispAddr := rfl
@[simp] theorem State.buildLut_scanBase : s.buildLut.scanBase = s.scanBase := rfl
@[simp] theorem State.buildLut_mem : s.buildLut.mem = s.mem := rfl
@[simp] theorem State.buildLut_engineBase : s.buildLut.engineBase = s.engineBase := rfl
@[simp] theorem State.buildLut_busErrors : s.buildLut.busErrors = s.busErrors := rfl
@[simp] theorem State.buildLut_inputs : s.buildLut.inputs = s.inputs := rfl
@[simp] theorem State.buildLut_hostData : s.buildLut.hostData = s.hostData := rfl
@[simp] theorem State.buildLut_freeCount : s.buildLut.freeCount = s.freeCount := rfl

/-! Acceptance. -/
@[simp] theorem State.accept_params (w : Word) : (s.accept w).params = s.params := rfl
@[simp] theorem State.accept_phase (w : Word) : (s.accept w).phase = .exec := rfl
@[simp] theorem State.accept_lutValid (w : Word) : (s.accept w).lutValid = s.lutValid := rfl
@[simp] theorem State.accept_inFrame (w : Word) : (s.accept w).inFrame = s.inFrame := rfl
@[simp] theorem State.accept_errCode (w : Word) : (s.accept w).errCode = s.errCode := rfl
@[simp] theorem State.accept_irqStatus (w : Word) : (s.accept w).irqStatus = s.irqStatus := rfl
@[simp] theorem State.accept_irqEn (w : Word) : (s.accept w).irqEn = s.irqEn := rfl
@[simp] theorem State.accept_errOp (w : Word) : (s.accept w).errOp = s.errOp := rfl
@[simp] theorem State.accept_errCheck (w : Word) : (s.accept w).errCheck = s.errCheck := rfl
@[simp] theorem State.accept_errPlane (w : Word) : (s.accept w).errPlane = s.errPlane := rfl
@[simp] theorem State.accept_errAddr (w : Word) : (s.accept w).errAddr = s.errAddr := rfl
@[simp] theorem State.accept_pixOut (w : Word) : (s.accept w).pixOut = s.pixOut := rfl
@[simp] theorem State.accept_activeIdx (w : Word) : (s.accept w).activeIdx = s.activeIdx := rfl
@[simp] theorem State.accept_lutRam (w : Word) : (s.accept w).lutRam = s.lutRam := rfl
@[simp] theorem State.accept_curCmd (w : Word) : (s.accept w).curCmd = w := rfl
@[simp] theorem State.accept_presentTarget (w : Word) : (s.accept w).presentTarget = s.presentTarget := rfl
@[simp] theorem State.accept_dispReq (w : Word) : (s.accept w).dispReq = s.dispReq := rfl
@[simp] theorem State.accept_dispAddr (w : Word) : (s.accept w).dispAddr = s.dispAddr := rfl
@[simp] theorem State.accept_scanBase (w : Word) : (s.accept w).scanBase = s.scanBase := rfl
@[simp] theorem State.accept_mem (w : Word) : (s.accept w).mem = s.mem := rfl
@[simp] theorem State.accept_engineBase (w : Word) : (s.accept w).engineBase = s.engineBase := rfl
@[simp] theorem State.accept_busErrors (w : Word) : (s.accept w).busErrors = s.busErrors := rfl
@[simp] theorem State.accept_inputs (w : Word) : (s.accept w).inputs = s.inputs := rfl
@[simp] theorem State.accept_hostData (w : Word) : (s.accept w).hostData = s.hostData := rfl
@[simp] theorem State.accept_freeCount (w : Word) : (s.accept w).freeCount = s.freeCount := rfl

/-! The stores of a stopped command. -/
@[simp] theorem State.stopStores_params (stores : List Store) : (s.stopStores stores).params = s.params := rfl
@[simp] theorem State.stopStores_phase (stores : List Store) : (s.stopStores stores).phase = s.phase := rfl
@[simp] theorem State.stopStores_lutValid (stores : List Store) : (s.stopStores stores).lutValid = s.lutValid := rfl
@[simp] theorem State.stopStores_inFrame (stores : List Store) : (s.stopStores stores).inFrame = s.inFrame := rfl
@[simp] theorem State.stopStores_errCode (stores : List Store) : (s.stopStores stores).errCode = s.errCode := rfl
@[simp] theorem State.stopStores_irqStatus (stores : List Store) : (s.stopStores stores).irqStatus = s.irqStatus := rfl
@[simp] theorem State.stopStores_irqEn (stores : List Store) : (s.stopStores stores).irqEn = s.irqEn := rfl
@[simp] theorem State.stopStores_errOp (stores : List Store) : (s.stopStores stores).errOp = s.errOp := rfl
@[simp] theorem State.stopStores_errCheck (stores : List Store) : (s.stopStores stores).errCheck = s.errCheck := rfl
@[simp] theorem State.stopStores_errPlane (stores : List Store) : (s.stopStores stores).errPlane = s.errPlane := rfl
@[simp] theorem State.stopStores_errAddr (stores : List Store) : (s.stopStores stores).errAddr = s.errAddr := rfl
@[simp] theorem State.stopStores_pixOut (stores : List Store) : (s.stopStores stores).pixOut = s.pixOut := rfl
@[simp] theorem State.stopStores_activeIdx (stores : List Store) : (s.stopStores stores).activeIdx = s.activeIdx := rfl
@[simp] theorem State.stopStores_lutRam (stores : List Store) : (s.stopStores stores).lutRam = s.lutRam := rfl
@[simp] theorem State.stopStores_curCmd (stores : List Store) : (s.stopStores stores).curCmd = s.curCmd := rfl
@[simp] theorem State.stopStores_presentTarget (stores : List Store) :
    (s.stopStores stores).presentTarget = s.presentTarget := rfl
@[simp] theorem State.stopStores_dispReq (stores : List Store) : (s.stopStores stores).dispReq = s.dispReq := rfl
@[simp] theorem State.stopStores_dispAddr (stores : List Store) : (s.stopStores stores).dispAddr = s.dispAddr := rfl
@[simp] theorem State.stopStores_scanBase (stores : List Store) : (s.stopStores stores).scanBase = s.scanBase := rfl
@[simp] theorem State.stopStores_mem (stores : List Store) :
    (s.stopStores stores).mem = State.stopStores.go s stores s.mem := rfl
@[simp] theorem State.stopStores_engineBase (stores : List Store) :
    (s.stopStores stores).engineBase = s.engineBase := rfl
@[simp] theorem State.stopStores_busErrors (stores : List Store) : (s.stopStores stores).busErrors = s.busErrors := rfl
@[simp] theorem State.stopStores_inputs (stores : List Store) : (s.stopStores stores).inputs = s.inputs := rfl
@[simp] theorem State.stopStores_hostData (stores : List Store) : (s.stopStores stores).hostData = s.hostData := rfl
@[simp] theorem State.stopStores_freeCount (stores : List Store) :
    (s.stopStores stores).freeCount = s.freeCount + 1 := rfl

/-! PRESENT's request. -/
@[simp] theorem State.requestPresent_params : s.requestPresent.params = s.params := rfl
@[simp] theorem State.requestPresent_phase : s.requestPresent.phase = .waitVsync := rfl
@[simp] theorem State.requestPresent_lutValid : s.requestPresent.lutValid = s.lutValid := rfl
@[simp] theorem State.requestPresent_inFrame : s.requestPresent.inFrame = s.inFrame := rfl
@[simp] theorem State.requestPresent_errCode : s.requestPresent.errCode = s.errCode := rfl
@[simp] theorem State.requestPresent_irqStatus : s.requestPresent.irqStatus = s.irqStatus := rfl
@[simp] theorem State.requestPresent_irqEn : s.requestPresent.irqEn = s.irqEn := rfl
@[simp] theorem State.requestPresent_errOp : s.requestPresent.errOp = s.errOp := rfl
@[simp] theorem State.requestPresent_errCheck : s.requestPresent.errCheck = s.errCheck := rfl
@[simp] theorem State.requestPresent_errPlane : s.requestPresent.errPlane = s.errPlane := rfl
@[simp] theorem State.requestPresent_errAddr : s.requestPresent.errAddr = s.errAddr := rfl
@[simp] theorem State.requestPresent_pixOut : s.requestPresent.pixOut = s.pixOut := rfl
@[simp] theorem State.requestPresent_activeIdx : s.requestPresent.activeIdx = s.activeIdx := rfl
@[simp] theorem State.requestPresent_lutRam : s.requestPresent.lutRam = s.lutRam := rfl
@[simp] theorem State.requestPresent_curCmd : s.requestPresent.curCmd = s.curCmd := rfl
@[simp] theorem State.requestPresent_presentTarget : s.requestPresent.presentTarget = s.inactiveIdx := rfl
@[simp] theorem State.requestPresent_dispReq : s.requestPresent.dispReq = true := rfl
@[simp] theorem State.requestPresent_dispAddr : s.requestPresent.dispAddr = s.params.fbBase s.inactiveIdx := rfl
@[simp] theorem State.requestPresent_scanBase : s.requestPresent.scanBase = s.scanBase := rfl
@[simp] theorem State.requestPresent_mem : s.requestPresent.mem = s.mem := rfl
@[simp] theorem State.requestPresent_engineBase : s.requestPresent.engineBase = s.engineBase := rfl
@[simp] theorem State.requestPresent_busErrors : s.requestPresent.busErrors = s.busErrors := rfl
@[simp] theorem State.requestPresent_inputs : s.requestPresent.inputs = s.inputs := rfl
@[simp] theorem State.requestPresent_hostData : s.requestPresent.hostData = s.hostData := rfl
@[simp] theorem State.requestPresent_freeCount : s.requestPresent.freeCount = s.freeCount := rfl

/-! PRESENT's completion. -/
@[simp] theorem State.finishPresent_params : s.finishPresent.params = s.params := rfl
@[simp] theorem State.finishPresent_phase : s.finishPresent.phase = .idle := rfl
@[simp] theorem State.finishPresent_lutValid : s.finishPresent.lutValid = s.lutValid := rfl
@[simp] theorem State.finishPresent_inFrame : s.finishPresent.inFrame = s.inFrame := rfl
@[simp] theorem State.finishPresent_errCode : s.finishPresent.errCode = s.errCode := rfl
@[simp] theorem State.finishPresent_irqStatus : s.finishPresent.irqStatus = s.irqStatus ||| irqDone := rfl
@[simp] theorem State.finishPresent_irqEn : s.finishPresent.irqEn = s.irqEn := rfl
@[simp] theorem State.finishPresent_errOp : s.finishPresent.errOp = s.errOp := rfl
@[simp] theorem State.finishPresent_errCheck : s.finishPresent.errCheck = s.errCheck := rfl
@[simp] theorem State.finishPresent_errPlane : s.finishPresent.errPlane = s.errPlane := rfl
@[simp] theorem State.finishPresent_errAddr : s.finishPresent.errAddr = s.errAddr := rfl
@[simp] theorem State.finishPresent_pixOut : s.finishPresent.pixOut = s.pixOut := rfl
@[simp] theorem State.finishPresent_activeIdx : s.finishPresent.activeIdx = s.presentTarget := rfl
@[simp] theorem State.finishPresent_lutRam : s.finishPresent.lutRam = s.lutRam := rfl
@[simp] theorem State.finishPresent_curCmd : s.finishPresent.curCmd = s.curCmd := rfl
@[simp] theorem State.finishPresent_presentTarget : s.finishPresent.presentTarget = s.presentTarget := rfl
@[simp] theorem State.finishPresent_dispReq : s.finishPresent.dispReq = false := rfl
@[simp] theorem State.finishPresent_dispAddr : s.finishPresent.dispAddr = 0 := rfl
@[simp] theorem State.finishPresent_scanBase : s.finishPresent.scanBase = s.dispAddr := rfl
@[simp] theorem State.finishPresent_mem : s.finishPresent.mem = s.mem := rfl
@[simp] theorem State.finishPresent_engineBase : s.finishPresent.engineBase = s.engineBase := rfl
@[simp] theorem State.finishPresent_busErrors : s.finishPresent.busErrors = s.busErrors := rfl
@[simp] theorem State.finishPresent_inputs : s.finishPresent.inputs = s.inputs := rfl
@[simp] theorem State.finishPresent_hostData : s.finishPresent.hostData = s.hostData := rfl
@[simp] theorem State.finishPresent_freeCount : s.finishPresent.freeCount = s.freeCount := rfl

/-! The completion of an image command. -/
@[simp] theorem State.doneWith_params (m : Memory) : (s.doneWith m).params = s.params := rfl
@[simp] theorem State.doneWith_phase (m : Memory) : (s.doneWith m).phase = .idle := rfl
@[simp] theorem State.doneWith_lutValid (m : Memory) : (s.doneWith m).lutValid = s.lutValid := rfl
@[simp] theorem State.doneWith_inFrame (m : Memory) : (s.doneWith m).inFrame = s.inFrame := rfl
@[simp] theorem State.doneWith_errCode (m : Memory) : (s.doneWith m).errCode = s.errCode := rfl
@[simp] theorem State.doneWith_irqStatus (m : Memory) : (s.doneWith m).irqStatus = s.irqStatus ||| 1 := rfl
@[simp] theorem State.doneWith_irqEn (m : Memory) : (s.doneWith m).irqEn = s.irqEn := rfl
@[simp] theorem State.doneWith_errOp (m : Memory) : (s.doneWith m).errOp = s.errOp := rfl
@[simp] theorem State.doneWith_errCheck (m : Memory) : (s.doneWith m).errCheck = s.errCheck := rfl
@[simp] theorem State.doneWith_errPlane (m : Memory) : (s.doneWith m).errPlane = s.errPlane := rfl
@[simp] theorem State.doneWith_errAddr (m : Memory) : (s.doneWith m).errAddr = s.errAddr := rfl
@[simp] theorem State.doneWith_pixOut (m : Memory) : (s.doneWith m).pixOut = s.pixOut := rfl
@[simp] theorem State.doneWith_activeIdx (m : Memory) : (s.doneWith m).activeIdx = s.activeIdx := rfl
@[simp] theorem State.doneWith_lutRam (m : Memory) : (s.doneWith m).lutRam = s.lutRam := rfl
@[simp] theorem State.doneWith_curCmd (m : Memory) : (s.doneWith m).curCmd = s.curCmd := rfl
@[simp] theorem State.doneWith_presentTarget (m : Memory) : (s.doneWith m).presentTarget = s.presentTarget := rfl
@[simp] theorem State.doneWith_dispReq (m : Memory) : (s.doneWith m).dispReq = s.dispReq := rfl
@[simp] theorem State.doneWith_dispAddr (m : Memory) : (s.doneWith m).dispAddr = s.dispAddr := rfl
@[simp] theorem State.doneWith_scanBase (m : Memory) : (s.doneWith m).scanBase = s.scanBase := rfl
@[simp] theorem State.doneWith_mem (m : Memory) : (s.doneWith m).mem = m := rfl
@[simp] theorem State.doneWith_engineBase (m : Memory) : (s.doneWith m).engineBase = s.engineBase := rfl
@[simp] theorem State.doneWith_busErrors (m : Memory) : (s.doneWith m).busErrors = s.busErrors := rfl
@[simp] theorem State.doneWith_inputs (m : Memory) : (s.doneWith m).inputs = s.inputs := rfl
@[simp] theorem State.doneWith_hostData (m : Memory) : (s.doneWith m).hostData = s.hostData := rfl
@[simp] theorem State.doneWith_freeCount (m : Memory) : (s.doneWith m).freeCount = s.freeCount + 1 := rfl

/-! The engine's reset. -/
@[simp] theorem State.resetEngine_params : s.resetEngine.params = State.reset.params := rfl
@[simp] theorem State.resetEngine_phase : s.resetEngine.phase = State.reset.phase := rfl
@[simp] theorem State.resetEngine_lutValid : s.resetEngine.lutValid = State.reset.lutValid := rfl
@[simp] theorem State.resetEngine_inFrame : s.resetEngine.inFrame = State.reset.inFrame := rfl
@[simp] theorem State.resetEngine_errCode : s.resetEngine.errCode = State.reset.errCode := rfl
@[simp] theorem State.resetEngine_irqStatus : s.resetEngine.irqStatus = State.reset.irqStatus := rfl
@[simp] theorem State.resetEngine_irqEn : s.resetEngine.irqEn = State.reset.irqEn := rfl
@[simp] theorem State.resetEngine_errOp : s.resetEngine.errOp = State.reset.errOp := rfl
@[simp] theorem State.resetEngine_errCheck : s.resetEngine.errCheck = State.reset.errCheck := rfl
@[simp] theorem State.resetEngine_errPlane : s.resetEngine.errPlane = State.reset.errPlane := rfl
@[simp] theorem State.resetEngine_errAddr : s.resetEngine.errAddr = State.reset.errAddr := rfl
@[simp] theorem State.resetEngine_pixOut : s.resetEngine.pixOut = State.reset.pixOut := rfl
@[simp] theorem State.resetEngine_activeIdx : s.resetEngine.activeIdx = State.reset.activeIdx := rfl
@[simp] theorem State.resetEngine_lutRam : s.resetEngine.lutRam = State.reset.lutRam := rfl
@[simp] theorem State.resetEngine_curCmd : s.resetEngine.curCmd = State.reset.curCmd := rfl
@[simp] theorem State.resetEngine_presentTarget : s.resetEngine.presentTarget = State.reset.presentTarget := rfl
@[simp] theorem State.resetEngine_dispReq : s.resetEngine.dispReq = State.reset.dispReq := rfl
@[simp] theorem State.resetEngine_dispAddr : s.resetEngine.dispAddr = State.reset.dispAddr := rfl
@[simp] theorem State.resetEngine_scanBase : s.resetEngine.scanBase = s.scanBase := rfl
@[simp] theorem State.resetEngine_mem : s.resetEngine.mem = s.mem := rfl
@[simp] theorem State.resetEngine_engineBase : s.resetEngine.engineBase = s.engineBase := rfl
@[simp] theorem State.resetEngine_busErrors : s.resetEngine.busErrors = s.busErrors := rfl
@[simp] theorem State.resetEngine_inputs : s.resetEngine.inputs = s.inputs := rfl
@[simp] theorem State.resetEngine_hostData : s.resetEngine.hostData = s.hostData := rfl
@[simp] theorem State.resetEngine_freeCount : s.resetEngine.freeCount = s.freeCount := rfl

/-! EnsureLUT changes the table and its valid bit only, and leaves both as they should be. -/
@[simp] theorem ensureLut_params : (ensureLut s).params = s.params := by unfold ensureLut; split <;> rfl
@[simp] theorem ensureLut_phase : (ensureLut s).phase = s.phase := by unfold ensureLut; split <;> rfl
@[simp] theorem ensureLut_inFrame : (ensureLut s).inFrame = s.inFrame := by unfold ensureLut; split <;> rfl
@[simp] theorem ensureLut_errCode : (ensureLut s).errCode = s.errCode := by unfold ensureLut; split <;> rfl
@[simp] theorem ensureLut_irqStatus : (ensureLut s).irqStatus = s.irqStatus := by unfold ensureLut; split <;> rfl
@[simp] theorem ensureLut_irqEn : (ensureLut s).irqEn = s.irqEn := by unfold ensureLut; split <;> rfl
@[simp] theorem ensureLut_errOp : (ensureLut s).errOp = s.errOp := by unfold ensureLut; split <;> rfl
@[simp] theorem ensureLut_errCheck : (ensureLut s).errCheck = s.errCheck := by unfold ensureLut; split <;> rfl
@[simp] theorem ensureLut_errPlane : (ensureLut s).errPlane = s.errPlane := by unfold ensureLut; split <;> rfl
@[simp] theorem ensureLut_errAddr : (ensureLut s).errAddr = s.errAddr := by unfold ensureLut; split <;> rfl
@[simp] theorem ensureLut_pixOut : (ensureLut s).pixOut = s.pixOut := by unfold ensureLut; split <;> rfl
@[simp] theorem ensureLut_activeIdx : (ensureLut s).activeIdx = s.activeIdx := by unfold ensureLut; split <;> rfl
@[simp] theorem ensureLut_curCmd : (ensureLut s).curCmd = s.curCmd := by unfold ensureLut; split <;> rfl
@[simp] theorem ensureLut_presentTarget : (ensureLut s).presentTarget = s.presentTarget := by unfold ensureLut; split <;> rfl
@[simp] theorem ensureLut_dispReq : (ensureLut s).dispReq = s.dispReq := by unfold ensureLut; split <;> rfl
@[simp] theorem ensureLut_dispAddr : (ensureLut s).dispAddr = s.dispAddr := by unfold ensureLut; split <;> rfl
@[simp] theorem ensureLut_scanBase : (ensureLut s).scanBase = s.scanBase := by unfold ensureLut; split <;> rfl
@[simp] theorem ensureLut_mem : (ensureLut s).mem = s.mem := by unfold ensureLut; split <;> rfl
@[simp] theorem ensureLut_engineBase : (ensureLut s).engineBase = s.engineBase := by unfold ensureLut; split <;> rfl
@[simp] theorem ensureLut_busErrors : (ensureLut s).busErrors = s.busErrors := by unfold ensureLut; split <;> rfl
@[simp] theorem ensureLut_inputs : (ensureLut s).inputs = s.inputs := by unfold ensureLut; split <;> rfl
@[simp] theorem ensureLut_hostData : (ensureLut s).hostData = s.hostData := by unfold ensureLut; split <;> rfl
@[simp] theorem ensureLut_freeCount : (ensureLut s).freeCount = s.freeCount := by unfold ensureLut; split <;> rfl
@[simp] theorem ensureLut_lutValid : (ensureLut s).lutValid = true := by
  unfold ensureLut
  split
  · assumption
  · rfl

/-- With the invariant that a valid LUT RAM holds the table, EnsureLUT gives the state with the table built. -/
theorem ensureLut_eq {s : State} (h : s.lutValid = true → s.lutRam = gammaTable) : ensureLut s = s.buildLut := by
  unfold ensureLut
  split
  · rename_i hv
    rw [State.buildLut, ← h hv]
    conv => rhs; rw [← hv]
  · rfl

/-! Error entry outside and inside FAILED, and the views of the phase. -/

theorem raiseError_of_failed {s : State} (h : s.phase = .failed) (code : ErrCode) (check : Byte) (plane : BitVec 2)
    (addr : Word) : raiseError code check plane addr s = s := if_pos h

theorem raiseError_of_ne {s : State} (h : s.phase ≠ .failed) (code : ErrCode) (check : Byte) (plane : BitVec 2)
    (addr : Word) : raiseError code check plane addr s = s.enterFailed code check plane addr := if_neg h

theorem runningOp_of_busy {s : State} (h : s.busy = true) : s.runningOp = BitVec.ofNat 8 s.curCmd.toNat := by
  unfold State.runningOp
  rw [if_pos h]
  apply BitVec.eq_of_toNat_eq
  simp

theorem runningOp_of_not_busy {s : State} (h : s.busy = false) : s.runningOp = 0 := by
  simp [State.runningOp, h]

theorem busy_iff : s.busy = true ↔ s.phase = .exec ∨ s.phase = .waitVsync := by
  unfold State.busy
  split <;> simp_all

theorem not_busy_iff : s.busy = false ↔ s.phase = .idle ∨ s.phase = .failed := by
  unfold State.busy
  split <;> simp_all

end Sys2Proof.Machine
end

