-- ==== Sys2Proof/Laws/Plan.lean ====
section
/-! SUPPORT. What the shared operation of the image commands can do, said once: the checks, the bus errors, the four outcomes
of `executePlan`, and the shape that the stores of every image command have. -/

namespace Sys2Proof.Machine

theorem firstFailure_eq_none {L : List (Bool × Failure)} : firstFailure L = none ↔ ∀ c ∈ L, c.1 = false := by
  induction L with
  | nil => simp [firstFailure]
  | cons c rest ih =>
    obtain ⟨b, f⟩ := c
    cases b <;> simp [firstFailure, ih]

/-- A reported failure is one of the list, with its condition true. -/
theorem firstFailure_eq_some {L : List (Bool × Failure)} {f : Failure} (h : firstFailure L = some f) : (true, f) ∈ L := by
  induction L with
  | nil => simp [firstFailure] at h
  | cons c rest ih =>
    obtain ⟨b, g⟩ := c
    cases b
    · simp only [firstFailure, Bool.false_eq_true, if_false] at h
      exact List.mem_cons_of_mem _ (ih h)
    · simp only [firstFailure, if_true, Option.some.injEq] at h
      simp [h]

/-- Checks 9–15 pass (60_exceptions.md R272). -/
theorem geometryChecks_pass {p : Params} {planes : List Plane} {dst : Surface} {bpp : Nat} {odd same : Bool} :
    firstFailure (geometryChecks p planes dst bpp odd same) = none ↔
      (p.srcW ≠ 0 ∧ p.srcH ≠ 0) ∧ (dst.width ≠ 0 ∧ dst.height ≠ 0) ∧ odd = false ∧
        (same = true → dst.width = p.srcW ∧ dst.height = p.srcH) ∧ (∀ k ∈ planes, k.rowBytes ≤ k.pitch) ∧
        dst.width * bpp ≤ dst.pitch ∧ (∀ k ∈ planes, k.last < Config.addressSpace) ∧
        (dst.plane bpp).last < Config.addressSpace := by
  rw [firstFailure_eq_none, geometryChecks]
  simp only [List.mem_append, List.mem_cons, List.mem_map, List.not_mem_nil, or_false, or_imp, forall_and, forall_eq,
    forall_exists_index, and_imp, forall_apply_eq_imp_iff₂, Bool.or_eq_false_iff, beq_eq_false_iff_ne,
    Bool.and_eq_false_iff, bne_eq_false_iff_eq, decide_eq_false_iff_not, not_lt, not_le]
  cases same <;> simp [and_assoc]

/-- A failing check of 9–15 raises CONVERSION_FAILED and is not check 16. -/
theorem geometryChecks_failure {p : Params} {planes : List Plane} {dst : Surface} {bpp : Nat} {odd same : Bool}
    {c : Bool × Failure} (h : c ∈ geometryChecks p planes dst bpp odd same) :
    c.2.code = .conversionFailed ∧ c.2.check ≠ 16 := by
  simp only [geometryChecks, conversionFailed, List.mem_append, List.mem_cons, List.mem_map, List.not_mem_nil,
    or_false] at h
  rcases h with ((((rfl | rfl | rfl | rfl) | ⟨k, -, rfl⟩) | rfl) | ⟨k, -, rfl⟩) | rfl <;> exact ⟨rfl, by simp⟩

/-- A picked failing access is one of the failing ones. -/
theorem pickFailing_mem {n : Nat} {L : List Access} {a : Access} (h : pickFailing n L = some a) : a ∈ L := by
  unfold pickFailing at h
  split at h
  · simp at h
  · simpa using (Option.some.inj h).symm
  · rename_i c b rest
    have hlt : Config.failingAccess n % (rest.length + 2) < (c :: b :: rest).length := Nat.mod_lt _ (by simp)
    simp only [Option.some.injEq, List.getD_eq_getElem _ _ hlt] at h
    rw [← h]
    exact List.getElem_mem hlt

theorem pickFailing_eq_none {n : Nat} {L : List Access} : pickFailing n L = none ↔ L = [] := by
  unfold pickFailing
  split <;> simp

/-- The access that stops a command is one of those it makes, and gets a bus error (60_exceptions.md R276). -/
theorem busFault_some {p : Plan} {s : State} {a : Access} (h : p.busFault s = some a) :
    a ∈ p.accesses s ∧ s.busErrorOn a = true := List.mem_filter.1 (pickFailing_mem h)

/-- A bus error on one of the accesses stops the command. -/
theorem busFault_ne_none {p : Plan} {s : State} (h : ∃ a ∈ p.accesses s, s.busErrorOn a = true) : p.busFault s ≠ none := by
  obtain ⟨a, ha, hb⟩ := h
  intro hn
  exact List.not_mem_nil (a := a) ((pickFailing_eq_none.1 hn : p.failing s = []) ▸
    (List.mem_filter.2 ⟨ha, hb⟩ : a ∈ p.failing s))

/-- The accesses that the effects must make are required, whatever is read beside them. -/
theorem mem_accesses {p : Plan} {s : State} {a : Access} : a ∈ p.accesses s ↔
    a ∈ p.reads ∨ p.inPlace = false ∧ (a ∈ p.extraReads s ∨ a ∈ p.stores.map Store.access) := by
  unfold Plan.accesses
  cases p.inPlace <;> simp

/-- No extra read can get a bus error where no source plane's range holds one. -/
theorem extraReads_eq_nil {p : Plan} {s : State} (h : p.extraSample = 0 ∨ ∀ k ∈ p.sources, s.busErrorIn k = false) :
    p.extraReads s = [] := by
  unfold Plan.extraReads
  rw [if_pos]
  rcases h with h | h
  · simp [h]
  · rw [List.any_eq_false.2 fun k hk => by simp [h k hk]]
    simp

/-- No bus error on any access, and none in any source plane's range: nothing stops the command. -/
theorem busFault_eq_none {p : Plan} {s : State} (hacc : ∀ a ∈ p.reads ++ p.stores.map Store.access, s.busErrorOn a = false)
    (hsrc : p.extraSample = 0 ∨ ∀ k ∈ p.sources, s.busErrorIn k = false) : p.busFault s = none := by
  refine pickFailing_eq_none.2 (List.filter_eq_nil_iff.2 fun a ha => ?_)
  rw [mem_accesses, extraReads_eq_nil hsrc] at ha
  simp [hacc a (by simpa using ha.imp_right fun h => by simpa using h.2)]

/-- A quiet plane's range holds no bus error address. -/
theorem busErrorIn_of_quiet {k : Plane} {s : State} (h : k.quiet s) (hk : k.base ≤ k.last) : s.busErrorIn k = false := by
  unfold State.busErrorIn
  rw [List.any_eq_false]
  rintro ⟨lo, hi⟩ hr
  simp only [decide_eq_true_eq, not_and, not_le]
  intro h1 h2
  by_contra h3
  have := h (max lo.toNat k.base) (le_max_right _ _) (max_le h2 hk)
  unfold State.busErrorAt at this
  rw [List.any_eq_false] at this
  exact this _ hr (by simp only [decide_eq_true_eq]; omega)

/-- An access inside a quiet plane's range gets no bus error. -/
theorem busErrorOn_of_quiet {k : Plane} {s : State} (h : k.quiet s) {a : Access} (h1 : k.base ≤ a.addr)
    (h2 : a.addr + a.size ≤ k.last + 1) : s.busErrorOn a = false := by
  unfold State.busErrorOn
  rw [List.any_eq_false]
  intro j hj
  rw [h (a.addr + j) (by omega) (by have := List.mem_range.1 hj; omega)]
  simp

/-- Everything that the command step of an image command can do. -/
theorem executePlan_next {p : Plan} {s t : State} (h : executePlan p s = .next t) :
    (∃ f, p.failure = some f ∧ t = raiseFailure f s) ∨
    (p.failure = none ∧ p.overlaps = false ∧ p.busFault s = none ∧
      t = (if p.usesLut then ensureLut s else s).doneWith (applyStores p.stores s.mem)) ∨
    (∃ a, p.failure = none ∧ p.overlaps = false ∧ p.busFault s = some a ∧
      t = raiseError .hardwareFault 16 a.plane (BitVec.ofNat 32 a.addr)
        ((if p.usesLut then ensureLut s else s).stopStores p.stores)) := by
  unfold executePlan at h
  split at h
  · rename_i f hf
    exact .inl ⟨f, hf, (Host.Outcome.next.inj h).symm⟩
  · rename_i hf
    split at h
    · simp at h
    · rename_i ho
      have ho : p.overlaps = false := by simpa using ho
      refine .inr ?_
      dsimp only at h
      split at h
      · rename_i hb
        refine .inl ⟨hf, ho, hb, ?_⟩
        rw [← Host.Outcome.next.inj h]
        cases p.usesLut <;> simp [State.doneWith, complete, irqDone]
      · rename_i a hb
        exact .inr ⟨a, hf, ho, hb, (Host.Outcome.next.inj h).symm⟩

theorem executePlan_of_failure {p : Plan} {s : State} {f : Failure} (h : p.failure = some f) :
    executePlan p s = .next (raiseFailure f s) := by
  simp [executePlan, h]

theorem executePlan_of_overlap {p : Plan} {s : State} (h : p.failure = none) (ho : p.overlaps = true) :
    executePlan p s = .refused .sourceDestinationOverlap := by
  simp [executePlan, h, ho]

/-- An image command that passes its checks, meets no overlap and no bus error completes. -/
theorem executePlan_done {p : Plan} {s : State} (h : p.failure = none) (ho : p.overlaps = false)
    (hb : p.busFault s = none) :
    executePlan p s = .next ((if p.usesLut then ensureLut s else s).doneWith (applyStores p.stores s.mem)) := by
  cases hl : p.usesLut <;> simp [executePlan, h, ho, hb, hl, State.doneWith, complete, irqDone]

/-- An image command that passes its checks and meets a bus error enters FAILED. -/
theorem executePlan_bus {p : Plan} {s : State} {a : Access} (h : p.failure = none) (ho : p.overlaps = false)
    (hb : p.busFault s = some a) :
    executePlan p s = .next (raiseError .hardwareFault 16 a.plane (BitVec.ofNat 32 a.addr)
      ((if p.usesLut then ensureLut s else s).stopStores p.stores)) := by
  simp [executePlan, h, ho, hb]

/-- The shape of every image command's stores: pixels of `f` on the surface `d`, one for each c of L, at place `pos c`, with
`bytes c`. -/
structure Plan.Draws (p : Plan) (f : RgbFormat) (d : Surface) (L : List (Nat × Nat)) (pos : Nat × Nat → Nat × Nat)
    (bytes : Nat × Nat → List Byte) : Prop where
  stores : p.stores = L.flatMap fun c => f.stores (d.addr f.bpp (pos c).1 (pos c).2) (bytes c)
  dest : p.dest = d.plane f.bpp
  length : ∀ c ∈ L, (bytes c).length = f.bpp
  inside : ∀ c ∈ L, (pos c).1 < d.width ∧ (pos c).2 < d.height
  injective : ∀ c ∈ L, ∀ c' ∈ L, pos c = pos c' → c = c'
  pitch : d.width * f.bpp ≤ d.pitch
  space : (d.plane f.bpp).last < Config.addressSpace

/-- A bytewise store is one byte at one of the places. -/
theorem mem_byteStores {a : Nat} {bytes : List Byte} {st : Store} (h : st ∈ byteStores a bytes) :
    st.bytes.length = 1 ∧ ∃ k, k < bytes.length ∧ st.addr = a + k := by
  induction bytes generalizing a with
  | nil => simp [byteStores] at h
  | cons b rest ih =>
    rcases List.mem_cons.1 h with rfl | h
    · exact ⟨rfl, 0, by simp, rfl⟩
    · obtain ⟨h1, k, hk, h2⟩ := ih h
      exact ⟨h1, k + 1, by simpa using hk, by omega⟩

/-- Two stores of one pixel that write the same byte write the same bytes. -/
theorem RgbFormat.stores_apart {f : RgbFormat} {a : Nat} {bytes : List Byte} {st st' : Store} (h : st ∈ f.stores a bytes)
    (h' : st' ∈ f.stores a bytes) {b : Nat} (hc : st.covers b) (hc' : st'.covers b) :
    st'.addr = st.addr ∧ st'.bytes.length = st.bytes.length := by
  have bytewise (h : st ∈ byteStores a bytes) (h' : st' ∈ byteStores a bytes) :
      st'.addr = st.addr ∧ st'.bytes.length = st.bytes.length := by
    have := (mem_byteStores h).1
    have := (mem_byteStores h').1
    unfold Store.covers at hc hc'
    omega
  have aligned (h : st ∈ alignedStore a bytes) (h' : st' ∈ alignedStore a bytes) :
      st'.addr = st.addr ∧ st'.bytes.length = st.bytes.length := by
    unfold alignedStore at h h'
    split at h <;> rename_i hal
    · rw [if_pos hal] at h'
      rw [List.mem_singleton.1 h, List.mem_singleton.1 h']
      exact ⟨rfl, rfl⟩
    · rw [if_neg hal] at h'
      exact bytewise h h'
  cases f with
  | rgb565 => exact aligned h h'
  | bgr888 => exact bytewise h h'
  | argb8888 => exact aligned h h'

theorem RgbFormat.bpp_pos (f : RgbFormat) : 0 < f.bpp := by cases f <;> decide

section Draws

variable {p : Plan} {f : RgbFormat} {d : Surface} {L : List (Nat × Nat)} {pos : Nat × Nat → Nat × Nat}
  {bytes : Nat × Nat → List Byte}

theorem Plan.Draws.pixel_inSpace (h : p.Draws f d L pos bytes) :
    ∀ c ∈ L, d.addr f.bpp (pos c).1 (pos c).2 + f.bpp ≤ Config.addressSpace := fun c hc =>
  Surface.addr_inSpace h.space f.bpp_pos (h.inside c hc).1 (h.inside c hc).2

theorem Plan.Draws.separate (h : p.Draws f d L pos bytes) :
    ∀ c ∈ L, ∀ c' ∈ L, ∀ j k, j < f.bpp → k < f.bpp →
      d.addr f.bpp (pos c).1 (pos c).2 + j = d.addr f.bpp (pos c').1 (pos c').2 + k → c = c' ∧ j = k := by
  intro c hc c' hc' j k hj hk heq
  obtain ⟨h1, h2, h3⟩ := Surface.addr_unique h.pitch (h.inside c hc).1 (h.inside c' hc').1 hj hk heq
  exact ⟨h.injective c hc c' hc' (Prod.ext h1 h2), h3⟩

theorem Plan.Draws.inSpace (h : p.Draws f d L pos bytes) : storesInSpace p.stores := by
  rw [h.stores]
  exact imageStores_inSpace h.length h.pixel_inSpace

/-- The stores lie in the destination plane's range. -/
theorem Plan.Draws.inDest (h : p.Draws f d L pos bytes) {st : Store} (hst : st ∈ p.stores) :
    p.dest.base ≤ st.addr ∧ st.addr + st.bytes.length ≤ p.dest.last + 1 := by
  rw [h.stores] at hst
  obtain ⟨c, hc, hst⟩ := List.mem_flatMap.1 hst
  obtain ⟨h1, h2, -⟩ := f.stores_piece hst
  rw [h.length c hc] at h2
  have hb := f.bpp_pos
  have hm : f.bpp * ((pos c).1 + 1) ≤ f.bpp * d.width := Nat.mul_le_mul_left _ (h.inside c hc).1
  rw [Nat.mul_add, Nat.mul_one] at hm
  have := (d.plane f.bpp).addr_le_last (row := (pos c).2) (off := f.bpp * (pos c).1 + (f.bpp - 1)) (h.inside c hc).2
    (by show _ < d.width * f.bpp; rw [Nat.mul_comm d.width]; omega)
  rw [h.dest]
  simp only [Surface.plane, Surface.addr] at this h1 h2 ⊢
  refine ⟨?_, by omega⟩
  have : d.base ≤ d.base + (pos c).2 * d.pitch + f.bpp * (pos c).1 := by omega
  omega

/-- All stores agree on every byte. -/
theorem Plan.Draws.agree (h : p.Draws f d L pos bytes) {st st' : Store} (hst : st ∈ p.stores) (hst' : st' ∈ p.stores)
    {j k : Nat} (hj : j < st.bytes.length) (hk : k < st'.bytes.length) (heq : st.addr + j = st'.addr + k) :
    st.bytes[j] = st'.bytes[k] := by
  rw [h.stores] at hst hst'
  obtain ⟨c, hc, hpc⟩ := List.mem_flatMap.1 hst'
  obtain ⟨h1, h2, h3⟩ := f.stores_piece hpc
  have hlt : st'.addr + k - d.addr f.bpp (pos c).1 (pos c).2 < (bytes c).length := by omega
  rw [imageStores_agree h.length h.separate hc hlt st hst j hj (by omega)]
  have := h3 k hk
  rw [List.getElem?_eq_getElem hlt] at this
  exact Option.some.inj this

/-- All stores performed: byte k of pixel c. -/
theorem Plan.Draws.read (h : p.Draws f d L pos bytes) {m : Memory} (hm : m.wf = true) {c : Nat × Nat} (hc : c ∈ L)
    {k : Nat} (hk : k < (bytes c).length) :
    (applyStores p.stores m).read (d.addr f.bpp (pos c).1 (pos c).2 + k) = (bytes c)[k] := by
  rw [h.stores]
  exact imageStores_read hm h.length h.pixel_inSpace h.separate hc hk

/-- All stores performed: a byte of no pixel. -/
theorem Plan.Draws.read_other (h : p.Draws f d L pos bytes) (m : Memory) {a : Nat}
    (ha : ∀ c ∈ L, ∀ k, k < f.bpp → a ≠ d.addr f.bpp (pos c).1 (pos c).2 + k) :
    (applyStores p.stores m).read a = m.read a := by
  rw [h.stores]
  exact imageStores_read_other m h.length ha

/-- A stopped command leaves every byte outside the destination range alone. -/
theorem Plan.Draws.stop_outside (h : p.Draws f d L pos bytes) (s : State) {a : Nat}
    (ha : a < p.dest.base ∨ p.dest.last < a) : (s.stopStores p.stores).mem.read a = s.mem.read a := by
  refine stopGo_read_other s p.stores s.mem fun st hst hc => ?_
  have := h.inDest hst
  unfold Store.covers at hc
  omega

/-- A stopped command leaves every byte at its old or its new value (60_exceptions.md R275). -/
theorem Plan.Draws.stop_read (h : p.Draws f d L pos bytes) {s : State} (hm : s.mem.wf = true) (a : Nat) :
    (s.stopStores p.stores).mem.read a = s.mem.read a ∨
      (s.stopStores p.stores).mem.read a = (applyStores p.stores s.mem).read a := by
  by_cases hcov : ∃ st ∈ p.stores, st.covers a
  · obtain ⟨st, hst, hle, hlt⟩ := hcov
    obtain ⟨k, rfl⟩ := Nat.exists_eq_add_of_le hle
    have hk : k < st.bytes.length := by omega
    have hag : ∀ st' ∈ p.stores, ∀ j (hj : j < st'.bytes.length), st'.addr + j = st.addr + k →
        st'.bytes[j] = st.bytes[k] := fun st' hst' j hj heq => h.agree hst' hst hj hk heq
    rw [applyStores_read_agreed p.stores hm h.inSpace hag (.inr ⟨st, hst, hle, hlt⟩)]
    exact stopGo_read_agreed s p.stores hm h.inSpace hag
  · exact .inl (stopGo_read_other s p.stores s.mem fun st hst hc => hcov ⟨st, hst, hc⟩)

/-- A stopped command writes no byte of an access that gets a bus error (60_exceptions.md R276). -/
theorem Plan.Draws.stop_failing (h : p.Draws f d L pos bytes) (s : State) {st : Store} (hst : st ∈ p.stores)
    (hb : s.busErrorOn st.access = true) {k : Nat} (hk : k < st.bytes.length) :
    (s.stopStores p.stores).mem.read (st.addr + k) = s.mem.read (st.addr + k) := by
  refine stopGo_read_failing s p.stores s.mem fun st' hst' hc' => ?_
  have hc : st.covers (st.addr + k) := ⟨by omega, by omega⟩
  rw [h.stores] at hst hst'
  obtain ⟨c, hcL, hp⟩ := List.mem_flatMap.1 hst
  obtain ⟨c', hcL', hp'⟩ := List.mem_flatMap.1 hst'
  obtain ⟨a1, a2, -⟩ := f.stores_piece hp
  obtain ⟨b1, b2, -⟩ := f.stores_piece hp'
  rw [h.length c hcL] at a2
  rw [h.length c' hcL'] at b2
  unfold Store.covers at hc hc'
  obtain rfl := (h.separate c hcL c' hcL' (st.addr + k - d.addr f.bpp (pos c).1 (pos c).2)
    (st.addr + k - d.addr f.bpp (pos c').1 (pos c').2) (by omega) (by omega) (by omega)).1
  obtain ⟨e1, e2⟩ := f.stores_apart hp hp' hc hc'
  simpa [State.busErrorOn, Store.access, e1, e2] using hb

end Draws

@[simp] theorem writeRgb_length (f : RgbFormat) (p : Rgb) (a : Byte) : (writeRgb f p a).length = f.bpp := by
  cases f <;> simp [writeRgb, RgbFormat.bpp]

@[simp] theorem rawBytes_length (m : Memory) (a n : Nat) : (rawBytes m a n).length = n := by simp [rawBytes]

@[simp] theorem ccmPixelBytes_length (f : RgbFormat) (p : Params) (m : Memory) (a : Nat) :
    (ccmPixelBytes f p m a).length = f.bpp := by
  unfold ccmPixelBytes
  split <;> simp

@[simp] theorem gammaPixelBytes_length (f : RgbFormat) (lut : List Byte) (m : Memory) (a : Nat) :
    (gammaPixelBytes f lut m a).length = f.bpp := by simp [gammaPixelBytes]

/-- The stores of CCM_APPLY and GAMMA_APPLY (41_color_model.md R166, R171). -/
theorem correctionPlan_draws {f : RgbFormat} {l : Bool} {bytesAt : Nat → List Byte} {s : State}
    (hlen : ∀ a, (bytesAt a).length = f.bpp) (h : (correctionPlan f l bytesAt s).failure = none) :
    (correctionPlan f l bytesAt s).Draws f s.params.dstSurface (pixels s.params.srcW s.params.srcH) id
      (fun c => bytesAt (s.params.srcAddr f.bpp c.1 c.2)) := by
  obtain ⟨-, -, -, hsame, -, hpitch, -, hspace⟩ := geometryChecks_pass.1 h
  refine ⟨rfl, rfl, fun _ _ => hlen _, fun c hc => ?_, fun _ _ _ _ hcc => hcc, hpitch, hspace⟩
  rw [(hsame rfl).1, (hsame rfl).2]
  exact mem_pixels.1 hc

/-- The stores of DEBAYER (42_demosaic.md R186). -/
theorem debayerPlan_draws {pattern : BayerPattern} {f : RgbFormat} {s : State}
    (h : (debayerPlan pattern f s).failure = none) :
    (debayerPlan pattern f s).Draws f s.params.dstSurface (pixels s.params.srcW s.params.srcH) id
      (fun c => writeRgb f
        (demosaic pattern (s.params.rawSample s.mem) s.params.srcW s.params.srcH c.1 c.2) 0) := by
  obtain ⟨-, -, -, hsame, -, hpitch, -, hspace⟩ := geometryChecks_pass.1 h
  refine ⟨rfl, rfl, fun _ _ => writeRgb_length _ _ _, fun c hc => ?_, fun _ _ _ _ hcc => hcc, hpitch, hspace⟩
  rw [(hsame rfl).1, (hsame rfl).2]
  exact mem_pixels.1 hc

/-- A stream command's checks pass: its sequence checks and its geometry checks do. -/
theorem firstFailure_append {A B : List (Bool × Failure)} :
    firstFailure (A ++ B) = none ↔ firstFailure A = none ∧ firstFailure B = none := by
  simp only [firstFailure_eq_none, List.mem_append, or_imp, forall_and]

/-- The stores of CONVERT and DRAW (43_format_converter.md R200, 45_compositor.md R251). -/
theorem streamPlan_draws {f : StreamFormat} {dst : Surface} {sequence : List (Bool × Failure)} {s : State}
    (h : (streamPlan f dst sequence s).failure = none) :
    (streamPlan f dst sequence s).Draws .rgb565 dst (clippedPixels s.params dst)
      (fun c => (s.params.dstX + c.1, s.params.dstY + c.2))
      (fun c => leBytes (f.pixel s.params s.mem c.1 c.2).toNat 2) := by
  obtain ⟨-, -, -, -, -, hpitch, -, hspace⟩ := geometryChecks_pass.1 (firstFailure_append.1 h).2
  refine ⟨rfl, rfl, fun _ _ => by simp [RgbFormat.bpp], fun c hc => (mem_clippedPixels.1 hc).2, ?_, hpitch, hspace⟩
  rintro ⟨x, y⟩ - ⟨x', y'⟩ - h
  simp only [Prod.mk.injEq] at h ⊢
  omega

/-- The plan of a command, when it has one, is what its meaning executes. -/
theorem exec_of_plan {i : Instr} {s : State} {p : Plan} (h : commandPlan i s = some p) : exec i s = executePlan p s := by
  cases i <;> first | (simp only [commandPlan, reduceCtorEq] at h; done) | (rw [← Option.some.inj h]; rfl)

/-- The plans that commands have. -/
theorem commandPlan_cases {i : Instr} {s : State} {p : Plan} (h : commandPlan i s = some p) :
    (∃ f, p = ccmPlan f s) ∨ (∃ f, p = gammaPlan f s) ∨ (∃ pattern f, p = debayerPlan pattern f s) ∨
      (∃ f, p = convertPlan f s) ∨ ∃ f, p = drawPlan f s := by
  cases i <;> simp only [commandPlan, reduceCtorEq, Option.some.injEq] at h <;> with_reducible first
    | exact .inl ⟨_, h.symm⟩
    | exact .inr (.inl ⟨_, h.symm⟩)
    | exact .inr (.inr (.inl ⟨_, _, h.symm⟩))
    | exact .inr (.inr (.inr (.inl ⟨_, h.symm⟩)))
    | exact .inr (.inr (.inr (.inr ⟨_, h.symm⟩)))

/-- The write accesses of a pixel are its read accesses, but for the plane they report. -/
theorem RgbFormat.stores_access {f : RgbFormat} {a : Nat} {bytes : List Byte} (hb : bytes.length = f.bpp) {st : Store}
    (h : st ∈ f.stores a bytes) : ∃ x ∈ f.reads a, x.addr = st.addr ∧ x.size = st.bytes.length := by
  have aligned {n : Nat} (hn : bytes.length = n) (h : st ∈ alignedStore a bytes) :
      ∃ x ∈ alignedAccess a n 0, x.addr = st.addr ∧ x.size = st.bytes.length := by
    subst hn
    unfold alignedStore at h
    unfold alignedAccess
    split at h <;> rename_i hal
    · rw [if_pos hal, List.mem_singleton.1 h]
      exact ⟨_, List.mem_singleton_self _, rfl, rfl⟩
    · obtain ⟨h1, k, hk, h2⟩ := mem_byteStores h
      rw [if_neg hal]
      exact ⟨_, List.mem_map.2 ⟨k, List.mem_range.2 hk, rfl⟩, h2.symm, h1.symm⟩
  cases f with
  | rgb565 => exact aligned hb h
  | argb8888 => exact aligned hb h
  | bgr888 =>
    obtain ⟨h1, k, hk, h2⟩ := mem_byteStores h
    rw [hb] at hk
    have hk : k = 0 ∨ k = 1 ∨ k = 2 := by simp only [RgbFormat.bpp] at hk; omega
    rcases hk with rfl | rfl | rfl <;> simp [RgbFormat.reads, h1, h2]

/-- In place a write that would get a bus error comes after a read that gets it (20_memory.md R94). -/
theorem commandPlan_inPlace {i : Instr} {s : State} {p : Plan} (h : commandPlan i s = some p) (hp : p.inPlace = true)
    {st : Store} (hst : st ∈ p.stores) (hb : s.busErrorOn st.access = true) : ∃ a ∈ p.reads, s.busErrorOn a = true := by
  have main {f : RgbFormat} {l : Bool} {bytesAt : Nat → List Byte} (hlen : ∀ a, (bytesAt a).length = f.bpp)
      (hp : (correctionPlan f l bytesAt s).inPlace = true) (hst : st ∈ (correctionPlan f l bytesAt s).stores) :
      ∃ a ∈ (correctionPlan f l bytesAt s).reads, s.busErrorOn a = true := by
    simp only [correctionPlan, Bool.and_eq_true, beq_iff_eq] at hp
    simp only [correctionPlan] at hst
    obtain ⟨c, hc, hst⟩ := List.mem_flatMap.1 hst
    obtain ⟨x, hx, h1, h2⟩ := f.stores_access (hlen _) hst
    refine ⟨x, List.mem_flatMap.2 ⟨c, hc, ?_⟩, ?_⟩
    · simpa [Surface.addr, Params.dstSurface, Params.srcAddr, hp.1, hp.2] using hx
    · simpa [State.busErrorOn, Store.access, h1, h2] using hb
  rcases commandPlan_cases h with ⟨f, rfl⟩ | ⟨f, rfl⟩ | ⟨pattern, f, rfl⟩ | ⟨f, rfl⟩ | ⟨f, rfl⟩
  · exact main (fun _ => ccmPixelBytes_length _ _ _ _) hp hst
  · exact main (fun _ => gammaPixelBytes_length _ _ _ _) hp hst
  all_goals simp [debayerPlan, convertPlan, drawPlan, streamPlan] at hp

/-- An access that an image command's effects make gets a bus error: the command is stopped, at one of its accesses. -/
theorem commandPlan_busFault {i : Instr} {s : State} {p : Plan} (h : commandPlan i s = some p)
    (hb : ∃ a ∈ p.reads ++ p.stores.map Store.access, s.busErrorOn a = true) : ∃ a, p.busFault s = some a := by
  refine Option.ne_none_iff_exists'.1 (busFault_ne_none ?_)
  obtain ⟨a, ha, hb⟩ := hb
  rcases List.mem_append.1 ha with ha | ha
  · exact ⟨a, mem_accesses.2 (.inl ha), hb⟩
  · cases hp : p.inPlace
    · exact ⟨a, mem_accesses.2 (.inr ⟨hp, .inr ha⟩), hb⟩
    · obtain ⟨st, hst, rfl⟩ := List.mem_map.1 ha
      obtain ⟨x, hx, hxb⟩ := commandPlan_inPlace h hp hst hb
      exact ⟨x, mem_accesses.2 (.inl hx), hxb⟩

/-- Every image command that passes its checks stores pixels of one format on one surface. -/
theorem commandPlan_draws {i : Instr} {s : State} {p : Plan} (h : commandPlan i s = some p) (hf : p.failure = none) :
    ∃ f d L pos bytes, p.Draws f d L pos bytes := by
  rcases commandPlan_cases h with ⟨f, rfl⟩ | ⟨f, rfl⟩ | ⟨pattern, f, rfl⟩ | ⟨f, rfl⟩ | ⟨f, rfl⟩
  · exact ⟨_, _, _, _, _, correctionPlan_draws (fun _ => ccmPixelBytes_length _ _ _ _) hf⟩
  · exact ⟨_, _, _, _, _, correctionPlan_draws (fun _ => gammaPixelBytes_length _ _ _ _) hf⟩
  · exact ⟨_, _, _, _, _, debayerPlan_draws hf⟩
  · exact ⟨_, _, _, _, _, streamPlan_draws hf⟩
  · exact ⟨_, _, _, _, _, streamPlan_draws hf⟩

/-- A failing check 5–15 of an image command: one of the raised codes, and not check 16. -/
theorem commandPlan_failure {i : Instr} {s : State} {p : Plan} {f : Failure} (h : commandPlan i s = some p)
    (hf : p.failure = some f) : f.code.raised = true ∧ f.check ≠ 16 := by
  have geometry {p : Params} {planes : List Plane} {dst : Surface} {bpp : Nat} {odd same : Bool} {c : Bool × Failure}
      (h : c ∈ geometryChecks p planes dst bpp odd same) : c.2.code.raised = true ∧ c.2.check ≠ 16 := by
    have := geometryChecks_failure h
    exact ⟨by rw [this.1]; rfl, this.2⟩
  rcases commandPlan_cases h with ⟨g, rfl⟩ | ⟨g, rfl⟩ | ⟨pattern, g, rfl⟩ | ⟨g, rfl⟩ | ⟨g, rfl⟩
  · exact geometry (firstFailure_eq_some hf)
  · exact geometry (firstFailure_eq_some hf)
  · exact geometry (firstFailure_eq_some hf)
  · exact geometry (firstFailure_eq_some hf)
  · rcases List.mem_append.1 (firstFailure_eq_some hf) with hmem | hmem
    · simp only [List.mem_singleton, Prod.mk.injEq] at hmem
      obtain ⟨-, rfl⟩ := hmem
      exact ⟨rfl, by simp⟩
    · exact geometry hmem

end Sys2Proof.Machine
end

