-- ==== Sys2Proof/Laws/Registers.lean ====
section
/-! SUPPORT. The register map is one to one: a register stands at its offset, and at no other (10_state.md R21). -/

namespace Sys2Proof.Machine

/-- What the map holds at an offset is the register of that offset. -/
theorem regAt_eq_some {off : Nat} {r : Reg} (h : regAt off = some r) :
    off = r.offset ∧ ∀ k, r = .gammaLut k → k < 64 := by
  unfold regAt at h
  split at h
  case h_41 =>
    split at h
    · rename_i hc
      obtain rfl := Option.some.inj h
      refine ⟨?_, ?_⟩
      · show off = 0x100 + 4 * ((off - 0x100) / 4)
        omega
      · intro k hk
        obtain rfl := Reg.gammaLut.inj hk
        omega
    · simp at h
  all_goals
    obtain rfl := Option.some.inj h
    exact ⟨rfl, by simp⟩

/-- Every register of the map stands at its offset. -/
theorem regAt_offset {r : Reg} (h : ∀ k, r = .gammaLut k → k < 64) : regAt r.offset = some r := by
  cases r
  case gammaLut k =>
    have hk := h k rfl
    clear h
    revert k
    decide
  all_goals rfl

/-- An offset of no register holds none. -/
theorem regAt_eq_none {off : Nat} (h : ∀ r : Reg, (∀ k, r = .gammaLut k → k < 64) → off ≠ r.offset) :
    regAt off = none := by
  cases hr : regAt off with
  | none => rfl
  | some r => exact absurd (regAt_eq_some hr).1 (h r (regAt_eq_some hr).2)

/-- A write to a read-only register changes nothing (10_state.md R22). -/
theorem regWrite_ro {r : Reg} (h : r.access = .ro) (v : Word) (s : State) : regWrite r v s = .next s := by
  simp [regWrite, h]

/-- A write to a parameter register while BUSY only sets REJECTED (R22). -/
theorem regWrite_busy {r : Reg} (h : r.isParameter = true) {s : State} (hb : s.busy = true) (v : Word) :
    regWrite r v s = .next (s.raiseIrq irqRejected) := by
  have hro : r.access ≠ .ro := by cases r <;> first | decide | simp [Reg.isParameter] at h
  simp [regWrite, h, hb, hro]

/-- The two 16-bit fields of a size or position register (10_state.md R39–R41, R45). -/
theorem halves_toNat (w : Word) :
    (w.extractLsb' 0 16).toNat = w.toNat % 65536 ∧ (w.extractLsb' 16 16).toNat = w.toNat / 65536 := by
  have := w.isLt
  simp only [BitVec.extractLsb'_toNat, Nat.shiftRight_eq_div_pow]
  omega

theorem Params.srcSize_halves (p : Params) : p.srcW = p.srcSize.toNat % 65536 ∧ p.srcH = p.srcSize.toNat / 65536 :=
  halves_toNat _

theorem Params.dstSize_halves (p : Params) : p.dstW = p.dstSize.toNat % 65536 ∧ p.dstH = p.dstSize.toNat / 65536 :=
  halves_toNat _

theorem Params.dstPos_halves (p : Params) : p.dstX = p.dstPos.toNat % 65536 ∧ p.dstY = p.dstPos.toNat / 65536 :=
  halves_toNat _

theorem Params.fbSize_halves (p : Params) : p.fbW = p.fbSize.toNat % 65536 ∧ p.fbH = p.fbSize.toNat / 65536 :=
  halves_toNat _

end Sys2Proof.Machine
end

