-- ==== Sys2Proof/Laws/Steps.lean ====
section
/-! SUPPORT. What each event can do to the state, said once: the command step, a stop, an error notification, a reset, a
register write, a host access. Proofs about steps cite these instead of unfolding the machine. -/

namespace Sys2Proof.Machine

/-- Everything that the command step of a decoded command can do. -/
theorem exec_next {i : Instr} {s t : State} (h : exec i s = .next t) :
    (∃ p, commandPlan i s = some p ∧ executePlan p s = .next t) ∨
    (∃ v b, t = complete { s with pixOut := v, inFrame := b }) ∨
    (∃ v, t = complete { ensureLut s with pixOut := v }) ∨
    (∃ f, (f = bracketOpen ∨ f = bracketMissing) ∧ t = raiseFailure f s) ∨
    (i = .present ∧ s.inFrame = false ∧ t = s.requestPresent) := by
  cases hp : commandPlan i s with
  | some p => exact .inl ⟨p, rfl, by rw [← exec_of_plan hp, h]⟩
  | none =>
    right
    cases i <;> simp only [commandPlan, reduceCtorEq] at hp
    case nop | pixYuv2rgb | pixPack565 | pixUnpack565 | pixCcm =>
      exact .inl ⟨_, _, (Host.Outcome.next.inj h).symm⟩
    case pixGamma => exact .inr (.inl ⟨_, (Host.Outcome.next.inj h).symm⟩)
    case gammaBuild => exact .inr (.inl ⟨(ensureLut s).pixOut, (Host.Outcome.next.inj h).symm⟩)
    case present =>
      simp only [exec, execPresent] at h
      split at h
      · exact .inr (.inr (.inl ⟨_, .inl rfl, (Host.Outcome.next.inj h).symm⟩))
      · rename_i hf
        exact .inr (.inr (.inr ⟨rfl, by simpa using hf, (Host.Outcome.next.inj h).symm⟩))
    case beginFrame =>
      simp only [exec, execBeginFrame] at h
      split at h
      · exact .inr (.inr (.inl ⟨_, .inl rfl, (Host.Outcome.next.inj h).symm⟩))
      · exact .inl ⟨s.pixOut, true, (Host.Outcome.next.inj h).symm⟩
    case endFrame =>
      simp only [exec, execEndFrame] at h
      split at h
      · exact .inl ⟨s.pixOut, false, (Host.Outcome.next.inj h).symm⟩
      · exact .inr (.inr (.inl ⟨_, .inr rfl, (Host.Outcome.next.inj h).symm⟩))

/-- Everything that the command step can do. -/
theorem runCommand_next {s t : State} (h : runCommand s = .next t) :
    (s.phase ≠ .exec ∧ t = s) ∨
    (∃ i, s.phase = .exec ∧ decode s.curCmd = .ok i ∧ exec i s = .next t) ∨
    (∃ e, s.phase = .exec ∧ decode s.curCmd = .error e ∧ t = raiseFailure (illegalWord e s) s) := by
  unfold runCommand at h
  split at h
  · rename_i hx
    split at h
    · rename_i i hi
      exact .inr (.inl ⟨i, hx, hi, h⟩)
    · rename_i e he
      exact .inr (.inr ⟨e, hx, he, (Host.Outcome.next.inj h).symm⟩)
  · rename_i hx
    exact .inl ⟨hx, (Host.Outcome.next.inj h).symm⟩

/-- An accepted word that is no legal command raises a code that is one of the raised ones, and not check 16. -/
theorem illegalWord_raised (e : DecodeError) (s : State) :
    (illegalWord e s).code.raised = true ∧ (illegalWord e s).check ≠ 16 := by
  have format (op : Op) : (formatErrorCode op).raised = true := by cases op <;> rfl
  unfold illegalWord
  split
  · exact ⟨rfl, by simp⟩
  · exact ⟨rfl, by simp⟩
  · exact ⟨rfl, by simp⟩
  · exact ⟨rfl, by simp⟩
  · split
    · exact ⟨rfl, by simp [bracketMissing]⟩
    · exact ⟨format _, by simp⟩
  · split
    · exact ⟨rfl, by simp [bracketMissing]⟩
    · exact ⟨format _, by simp⟩

theorem ErrCode.ne_none_of_raised {c : ErrCode} (h : c.raised = true) : c ≠ .none := by
  rintro rfl
  cases h

/-- What a command step in EXEC leaves of the phase: the command completes, or PRESENT waits, or an error is held. -/
theorem runCommand_phase {s t : State} (hx : s.phase = .exec) (h : runCommand s = .next t) :
    (t.phase = .idle ∧ t.irqStatus.getLsbD 0 = true) ∨
    (t.phase = .waitVsync ∧ decode s.curCmd = .ok .present ∧ t.dispReq = true) ∨
    (t.phase = .failed ∧ t.errCode ≠ .none ∧ t.irqStatus.getLsbD 1 = true) := by
  have error {u : State} (hu : u.phase ≠ .failed) {code : ErrCode} (hc : code.raised = true) (check : Byte)
      (plane : BitVec 2) (addr : Word) : (raiseError code check plane addr u).phase = .failed ∧
      (raiseError code check plane addr u).errCode ≠ .none ∧
      (raiseError code check plane addr u).irqStatus.getLsbD 1 = true := by
    rw [raiseError_of_ne hu]
    exact ⟨rfl, ErrCode.ne_none_of_raised hc, by simp [irqError]⟩
  have hf : s.phase ≠ .failed := by simp [hx]
  rcases runCommand_next h with ⟨hne, -⟩ | ⟨i, -, hd, he⟩ | ⟨e, -, -, rfl⟩
  · exact absurd hx hne
  · rcases exec_next he with ⟨p, hp, he⟩ | ⟨v, b, rfl⟩ | ⟨v, rfl⟩ | ⟨f, hb, rfl⟩ | ⟨rfl, -, rfl⟩
    · rcases executePlan_next he with ⟨f, hpf, rfl⟩ | ⟨-, -, -, rfl⟩ | ⟨a, -, -, -, rfl⟩
      · exact .inr (.inr (error hf (commandPlan_failure hp hpf).1 _ _ _))
      · exact .inl ⟨rfl, by simp [State.doneWith]⟩
      · exact .inr (.inr (error (by cases p.usesLut <;> simp [hx]) rfl _ _ _))
    · exact .inl ⟨rfl, by simp [complete, irqDone]⟩
    · exact .inl ⟨rfl, by simp [complete, irqDone]⟩
    · exact .inr (.inr (error hf (by rcases hb with rfl | rfl <;> rfl) _ _ _))
    · exact .inr (.inl ⟨rfl, hd, rfl⟩)
  · exact .inr (.inr (error hf (illegalWord_raised e s).1 _ _ _))

/-- The plan of the command in progress. -/
theorem runningPlan_some {s : State} {p : Plan} (h : s.runningPlan = some p) :
    ∃ i, s.phase = .exec ∧ decode s.curCmd = .ok i ∧ commandPlan i s = some p ∧ p.failure = none := by
  unfold State.runningPlan at h
  split at h
  · rename_i hx
    split at h
    · simp at h
    · rename_i i hi
      split at h
      · simp at h
      · rename_i q hq
        split at h
        · rename_i hf
          obtain rfl := Option.some.inj h
          exact ⟨i, hx, hi, hq, hf⟩
        · simp at h
  · simp at h

theorem runningPlan_eq {s : State} {i : Instr} {p : Plan} (hx : s.phase = .exec) (hi : decode s.curCmd = .ok i)
    (hp : commandPlan i s = some p) (hf : p.failure = none) : s.runningPlan = some p := by
  simp [State.runningPlan, hx, hi, hp, hf]

theorem runningPlan_of_ne {s : State} (hx : s.phase ≠ .exec) : s.runningPlan = none := by simp [State.runningPlan, hx]

/-- Where a stop can hit a command: before its effects, or within them (logs 9, 12). -/
theorem State.stopPlan_cases (s : State) (p : Plan) :
    s.stopPlan p = { s with freeCount := s.freeCount + 1 } ∨
      s.stopPlan p = (if p.usesLut then ensureLut s else s).stopStores p.stores := by
  unfold State.stopPlan
  split
  · exact .inr rfl
  · exact .inl rfl

/-- A stop changes memory, the gamma table and the model's counter at most. -/
theorem State.stopPlan_eq (s : State) (p : Plan) :
    s.stopPlan p = { s with
      mem := (s.stopPlan p).mem, lutRam := (s.stopPlan p).lutRam, lutValid := (s.stopPlan p).lutValid,
      freeCount := s.freeCount + 1 } := by
  rcases s.stopPlan_cases p with h | h <;> rw [h]
  cases p.usesLut
  · rfl
  · simp only [if_true, ensureLut]
    split <;> rfl

/-- Everything that stopping the command in progress can do. -/
theorem stopCommand_next {s t : State} (h : stopCommand s = .next t) :
    t = s ∨ ∃ p, s.runningPlan = some p ∧ p.overlaps = false ∧ t = s.stopPlan p := by
  unfold stopCommand at h
  split at h
  · exact .inl (Host.Outcome.next.inj h).symm
  · rename_i p hp
    split at h
    · simp at h
    · rename_i ho
      exact .inr ⟨p, hp, by simpa using ho, (Host.Outcome.next.inj h).symm⟩

theorem stopCommand_of_ne {s : State} (hx : s.phase ≠ .exec) : stopCommand s = .next s := by
  simp [stopCommand, runningPlan_of_ne hx]

theorem stopCommand_of_plan {s : State} {p : Plan} (hp : s.runningPlan = some p) (ho : p.overlaps = false) :
    stopCommand s = .next (s.stopPlan p) := by simp [stopCommand, hp, ho]

theorem afterStop_next {o : Host.Outcome State Fault Refusal} {f : State → State} {t : State}
    (h : afterStop o f = .next t) : ∃ u, o = .next u ∧ t = f u := by
  cases o with
  | next u => exact ⟨u, rfl, (Host.Outcome.next.inj h).symm⟩
  | fault r => simp [afterStop] at h
  | refused r => simp [afterStop] at h

/-- Everything that DISP_ERR can do (60_exceptions.md R277). -/
theorem displayError_next {s t : State} (h : displayError s = .next t) :
    ∃ u, stopCommand s = .next u ∧ t = raiseError .hardwareFault 17 0 0 u := afterStop_next h

/-- Everything that a reset can do (70_reset_and_hazards.md R300–R303). -/
theorem resetMachine_next {s t : State} (h : resetMachine s = .next t) :
    (s.phase = .waitVsync ∧ t = { s.resetEngine with
        scanBase := if Config.switchedAtReset s.freeCount then s.dispAddr else s.scanBase
        freeCount := s.freeCount + 1 }) ∨
    (s.phase ≠ .waitVsync ∧ ∃ u, stopCommand s = .next u ∧ t = u.resetEngine) := by
  unfold resetMachine at h
  split at h <;> rename_i hx
  · exact .inl ⟨hx, (Host.Outcome.next.inj h).symm⟩
  all_goals exact .inr ⟨by simp [hx], afterStop_next h⟩

/-- Everything that a host write to the register block can do (10_state.md R22). -/
theorem writeOffset_next {off : Nat} {v : Word} {s t : State} (h : writeOffset off v s = .next t) :
    t = s ∨ t = s.raiseIrq irqRejected ∨
    (regAt off = some .ctrl ∧ v.getLsbD 0 = true ∧ resetMachine s = .next t) ∨
    (regAt off = some .irqStatus ∧ t = { s with irqStatus := s.irqStatus &&& ~~~(v.extractLsb' 0 3) }) ∨
    (regAt off = some .irqEn ∧ t = { s with irqEn := v.extractLsb' 0 3 }) ∨
    (regAt off = some .cmd ∧ s.phase = .idle ∧ t = s.accept v) ∨
    (regAt off = some .fbCfg ∧ s.busy = false ∧ legalSurfaceCount (v.extractLsb' 0 3) = true ∧
      t = { s with params := { s.params with fbN := v.extractLsb' 0 3 }, activeIdx := 0 }) ∨
    (∃ r, regAt off = some r ∧ r.isParameter = true ∧ r ≠ .fbCfg ∧ s.busy = false ∧
      t = { s with params := s.params.write r v }) := by
  unfold writeOffset at h
  split at h
  · rename_i r hr
    unfold regWrite at h
    split at h
    · exact .inl (Host.Outcome.next.inj h).symm
    · rename_i hro
      split at h
      · exact .inr (.inl (Host.Outcome.next.inj h).symm)
      · rename_i hpb
        split at h
        · split at h
          · rename_i hv
            exact .inr (.inr (.inl ⟨hr, hv, h⟩))
          · exact .inl (Host.Outcome.next.inj h).symm
        · exact .inr (.inr (.inr (.inl ⟨hr, (Host.Outcome.next.inj h).symm⟩)))
        · exact .inr (.inr (.inr (.inr (.inl ⟨hr, (Host.Outcome.next.inj h).symm⟩))))
        · have h := Host.Outcome.next.inj h
          unfold State.submit at h
          split at h
          · rename_i hx
            exact .inr (.inr (.inr (.inr (.inr (.inl ⟨hr, hx, h.symm⟩)))))
          · exact .inr (.inl h.symm)
        · have h := Host.Outcome.next.inj h
          unfold State.writeFbCfg at h
          split at h
          · rename_i hl
            exact .inr (.inr (.inr (.inr (.inr (.inr (.inl ⟨hr, by simpa [Reg.isParameter] using hpb, hl, h.symm⟩))))))
          · exact .inl h.symm
        · rename_i h1 h2 h3 h4 h5
          have hp : r.isParameter = true := by
            cases r <;> first | rfl | (exact absurd rfl hro) | (exact absurd rfl ‹_›)
          exact .inr (.inr (.inr (.inr (.inr (.inr (.inr
            ⟨r, hr, hp, by rintro rfl; exact h5 rfl, by simpa [hp] using hpb, (Host.Outcome.next.inj h).symm⟩))))))
  · exact .inl (Host.Outcome.next.inj h).symm

/-- A write to another parameter register keeps FB_CFG.N. -/
@[simp] theorem Params.write_fbN (p : Params) (r : Reg) (v : Word) : (p.write r v).fbN = p.fbN := by cases r <;> rfl

/-- Everything that a host store can do (20_memory.md R70, R86, R93). -/
theorem hostStore_next {addr v : Word} {size : AccessSize} {s t : State} (h : hostStore addr size v s = .next t) :
    (s.hitsBlock addr size = true ∧ size = .word ∧ ∃ off, s.blockOffset addr .word = some off ∧
      off < Config.blockBytes ∧ writeOffset off v s = .next t) ∨
    (s.hitsBlock addr size = false ∧ addr.toNat + size.bytes ≤ Config.addressSpace ∧
      s.storeRaces addr.toNat size.bytes = false ∧
      t = { s with mem := s.mem.writeLE addr.toNat size.bytes v.toNat }) := by
  unfold hostStore at h
  split at h
  · rename_i hb
    split at h
    · rename_i off hoff
      have hoff' := hoff
      unfold State.blockOffset at hoff'
      split at hoff'
      · rename_i hc
        obtain ⟨rfl, hge, -⟩ := hc
        refine .inl ⟨hb, rfl, off, hoff, ?_, h⟩
        have := Option.some.inj hoff'
        unfold State.hitsBlock at hb
        simp only [decide_eq_true_eq] at hb
        omega
      · simp at hoff'
    · simp at h
  · rename_i hb
    split at h
    · simp at h
    · rename_i ha
      split at h
      · simp at h
      · rename_i hr
        exact .inr ⟨by simpa using hb, by omega, by simpa using hr, (Host.Outcome.next.inj h).symm⟩

/-- The register that such a store writes is the one that `storeTarget` names. -/
theorem storeTarget_eq {s : State} {addr : Word} {off : Nat} (h : s.blockOffset addr .word = some off)
    (hlt : off < Config.blockBytes) : s.storeTarget addr .word = regAt off := by
  simp [State.storeTarget, h, hlt]

/-- A host load changes nothing but the value returned (20_memory.md R87). -/
theorem hostLoad_next {addr : Word} {size : AccessSize} {s t : State} (h : hostLoad addr size s = .next t) :
    t = { s with hostData := t.hostData } := by
  unfold hostLoad at h
  repeat' split at h
  all_goals first
    | (simp at h; done)
    | (have := Host.Outcome.next.inj h; subst this; rfl)

/-- A VSYNC_ACK completes PRESENT or does nothing (44_framebuffer.md R237, R238). -/
theorem vsyncAck_eq (s : State) : (s.phase = .waitVsync ∧ vsyncAck s = s.finishPresent) ∨
    (s.phase ≠ .waitVsync ∧ vsyncAck s = s) := by
  by_cases h : s.phase = .waitVsync <;> simp [vsyncAck, h]

/-- A step performs its next event, if it has one. -/
theorem step_eq (s : State) :
    step s = match s.nextEvent with
      | none => .next { s with inputs := s.inputsAfter }
      | some e => perform e { s with inputs := s.inputsAfter } := by
  unfold step State.nextEvent State.inputsAfter
  cases hin : s.inputs with
  | nil =>
    show runCommand s = runCommand { s with inputs := [] }
    conv => lhs; rw [show s = { s with inputs := [] } by rw [← hin]]
  | cons cycle rest =>
    dsimp only
    cases hf : firstEvent s cycle with
    | none => simp
    | some q => simp

end Sys2Proof.Machine
end

