-- ==== Sys2Proof/Tests/Slice0.lean ====
section
/-! SUPPORT. Tests: ill-formed words, every command's word, one small step per command against the spec's own vectors
(95_test_vectors.md V1–V104), and for every statement a state that meets its hypotheses. -/

namespace Sys2Proof.Tests

open Sys2Proof.Machine

-- One theorem at a time: kernel evaluations that wait for one another would each hold a thread.
set_option Elab.async false

/-! WellFormed refuses an ill-formed word for each of its checks. -/

theorem test_wf_accepts : (CmdFields.mk 0x00 0x01 0x20 0x20).wellFormed = true := by decide
theorem test_wf_refuses_reserved :
    (CmdFields.mk 0x01 0x00 0x00 0x00).rsvdZero = false ∧ (CmdFields.mk 0x01 0x00 0x00 0x00).wellFormed = false := by
  decide
theorem test_wf_refuses_op :
    (CmdFields.mk 0x00 0x00 0x00 0x06).opListed = false ∧ (CmdFields.mk 0x00 0x00 0x00 0x06).wellFormed = false := by
  decide
theorem test_wf_refuses_source :
    (CmdFields.mk 0x00 0x00 0x01 0x01).sfmtLegal = false ∧ (CmdFields.mk 0x00 0x00 0x03 0x30).sfmtLegal = false ∧
      (CmdFields.mk 0x00 0x00 0x01 0x01).wellFormed = false ∧
      (CmdFields.mk 0x00 0x00 0x03 0x30).wellFormed = false := by decide
theorem test_wf_refuses_destination :
    (CmdFields.mk 0x00 0x01 0x00 0x40).dfmtLegal = false ∧ (CmdFields.mk 0x00 0xFF 0x10 0x30).dfmtLegal = false ∧
      (CmdFields.mk 0x00 0x01 0x00 0x40).wellFormed = false ∧
      (CmdFields.mk 0x00 0xFF 0x10 0x30).wellFormed = false := by decide
theorem test_wf_refuses_unsupported :
    [CmdFields.mk 0x00 0x10 0x10 0x10, ⟨0x00, 0x01, 0x00, 0x12⟩, ⟨0x00, 0x02, 0x20, 0x20⟩, ⟨0x00, 0x00, 0x02, 0x30⟩,
      ⟨0x00, 0x01, 0x10, 0x51⟩].all (fun f => !f.supported && !f.wellFormed) = true := by decide

/-! Every command's word, written as {RSVD, DFMT, SFMT, OP} from the codes of 30_encoding.md R101 and R102. -/

theorem test_decode_nop : decode 0b00000000000000000000000000000000#32 = .ok .nop := by decide
theorem test_decode_pixYuv2rgb : decode 0b00000000000000000000000000000001#32 = .ok .pixYuv2rgb := by decide
theorem test_decode_pixPack565 : decode 0b00000000000000000000000000000010#32 = .ok .pixPack565 := by decide
theorem test_decode_pixUnpack565 : decode 0b00000000000000000000000000000011#32 = .ok .pixUnpack565 := by decide
theorem test_decode_pixCcm : decode 0b00000000000000000000000000000100#32 = .ok .pixCcm := by decide
theorem test_decode_pixGamma : decode 0b00000000000000000000000000000101#32 = .ok .pixGamma := by decide
theorem test_decode_ccmApplyRgb565 : decode 0b00000000000000000000000000010000#32 = .ok .ccmApplyRgb565 := by decide
theorem test_decode_ccmApplyBgr888 : decode 0b00000000000000010000000100010000#32 = .ok .ccmApplyBgr888 := by decide
theorem test_decode_ccmApplyArgb8888 : decode 0b00000000000000100000001000010000#32 = .ok .ccmApplyArgb8888 := by decide
theorem test_decode_gammaBuild : decode 0b00000000000000000000000000010001#32 = .ok .gammaBuild := by decide
theorem test_decode_gammaApplyRgb565 : decode 0b00000000000000000000000000010010#32 = .ok .gammaApplyRgb565 := by decide
theorem test_decode_gammaApplyBgr888 : decode 0b00000000000000010000000100010010#32 = .ok .gammaApplyBgr888 := by decide
theorem test_decode_gammaApplyArgb8888 : decode 0b00000000000000100000001000010010#32 = .ok .gammaApplyArgb8888 := by decide
theorem test_decode_debayerRggbBgr888 : decode 0b00000000000000010010000000100000#32 = .ok .debayerRggbBgr888 := by decide
theorem test_decode_debayerRggbRgb565 : decode 0b00000000000000000010000000100000#32 = .ok .debayerRggbRgb565 := by decide
theorem test_decode_debayerGrbgBgr888 : decode 0b00000000000000010010000100100000#32 = .ok .debayerGrbgBgr888 := by decide
theorem test_decode_debayerGrbgRgb565 : decode 0b00000000000000000010000100100000#32 = .ok .debayerGrbgRgb565 := by decide
theorem test_decode_debayerGbrgBgr888 : decode 0b00000000000000010010001000100000#32 = .ok .debayerGbrgBgr888 := by decide
theorem test_decode_debayerGbrgRgb565 : decode 0b00000000000000000010001000100000#32 = .ok .debayerGbrgRgb565 := by decide
theorem test_decode_debayerBggrBgr888 : decode 0b00000000000000010010001100100000#32 = .ok .debayerBggrBgr888 := by decide
theorem test_decode_debayerBggrRgb565 : decode 0b00000000000000000010001100100000#32 = .ok .debayerBggrRgb565 := by decide
theorem test_decode_convertBgr888 : decode 0b00000000000000000000000100110000#32 = .ok .convertBgr888 := by decide
theorem test_decode_convertI420 : decode 0b00000000000000000001000000110000#32 = .ok .convertI420 := by decide
theorem test_decode_convertYv12 : decode 0b00000000000000000001000100110000#32 = .ok .convertYv12 := by decide
theorem test_decode_convertI422 : decode 0b00000000000000000001001000110000#32 = .ok .convertI422 := by decide
theorem test_decode_convertI444 : decode 0b00000000000000000001001100110000#32 = .ok .convertI444 := by decide
theorem test_decode_convertI400 : decode 0b00000000000000000001010000110000#32 = .ok .convertI400 := by decide
theorem test_decode_convertNv12 : decode 0b00000000000000000001100000110000#32 = .ok .convertNv12 := by decide
theorem test_decode_convertNv21 : decode 0b00000000000000000001100100110000#32 = .ok .convertNv21 := by decide
theorem test_decode_convertYuy2 : decode 0b00000000000000000001110000110000#32 = .ok .convertYuy2 := by decide
theorem test_decode_convertUyvy : decode 0b00000000000000000001110100110000#32 = .ok .convertUyvy := by decide
theorem test_decode_present : decode 0b00000000000000000000000001000000#32 = .ok .present := by decide
theorem test_decode_beginFrame : decode 0b00000000000000000000000001010000#32 = .ok .beginFrame := by decide
theorem test_decode_drawRgb565 : decode 0b00000000000000000000000001010001#32 = .ok .drawRgb565 := by decide
theorem test_decode_drawBgr888 : decode 0b00000000000000000000000101010001#32 = .ok .drawBgr888 := by decide
theorem test_decode_drawI420 : decode 0b00000000000000000001000001010001#32 = .ok .drawI420 := by decide
theorem test_decode_drawYv12 : decode 0b00000000000000000001000101010001#32 = .ok .drawYv12 := by decide
theorem test_decode_drawI422 : decode 0b00000000000000000001001001010001#32 = .ok .drawI422 := by decide
theorem test_decode_drawI444 : decode 0b00000000000000000001001101010001#32 = .ok .drawI444 := by decide
theorem test_decode_drawI400 : decode 0b00000000000000000001010001010001#32 = .ok .drawI400 := by decide
theorem test_decode_drawNv12 : decode 0b00000000000000000001100001010001#32 = .ok .drawNv12 := by decide
theorem test_decode_drawNv21 : decode 0b00000000000000000001100101010001#32 = .ok .drawNv21 := by decide
theorem test_decode_drawYuy2 : decode 0b00000000000000000001110001010001#32 = .ok .drawYuy2 := by decide
theorem test_decode_drawUyvy : decode 0b00000000000000000001110101010001#32 = .ok .drawUyvy := by decide
theorem test_decode_endFrame : decode 0b00000000000000000000000001010010#32 = .ok .endFrame := by decide

/-- V91–V97, V71, V52: the words that are no commands, one for each step of R104. -/
theorem test_decode_refuses :
    decode 0x01000000 = .error .reservedBits ∧ decode 0x00000006 = .error .undefinedOp ∧
      decode 0x00000101 = .error .illegalSource ∧ decode 0x00000330 = .error .illegalSource ∧
      decode 0x00FF1030 = .error .illegalDestination ∧ decode 0x00101010 = .error (.unsupportedSource .ccmApply) ∧
      decode 0x00010010 = .error (.unsupportedDestination .ccmApply) ∧
      decode 0x00000230 = .error (.unsupportedSource .convert) ∧
      decode 0x00022020 = .error (.unsupportedDestination .debayer) := by decide

/-- The table's numbering: a command is one 32-bit word. -/
theorem test_decodeTableWord : decodeTableWord 32 0x00012020 = some .debayerRggbBgr888 := by decide

/-! Helpers: a machine after reset with some parameters and memory; one command step from it; what memory holds. -/

/-- A machine after reset with these parameters and this memory. -/
def machine (p : Params) (m : Memory) : State := { State.reset with params := p, mem := m }

/-- One step of the machine with this command word accepted. -/
def ran (w : Nat) (s : State) : State :=
  match step (s.withFetchWord 32 w) with
  | .next t => t
  | .fault _ => s
  | .refused _ => s

/-- The step ends in a next state. -/
def goesOn (w : Nat) (s : State) : Bool :=
  match step (s.withFetchWord 32 w) with
  | .next _ => true
  | .fault _ => false
  | .refused _ => false

/-- A w × h source plane 0 at `b` and a w × h destination at `d`. -/
def sized (w h b p d q : Nat) : Params :=
  { Params.reset with
    srcSize := BitVec.ofNat 32 (w + 65536 * h), srcBase0 := BitVec.ofNat 32 b, srcPitch0 := BitVec.ofNat 32 p
    dstSize := BitVec.ofNat 32 (w + 65536 * h), dstBase := BitVec.ofNat 32 d, dstPitch := BitVec.ofNat 32 q }

/-- The bytes at rising addresses, over memory `m`. -/
def put (a : Nat) (bytes : List Byte) (m : Memory) : Memory := m.writeBytes a bytes

/-- `n` halfwords from `a`. -/
def halves (s : State) (a n : Nat) : List Nat := (List.range n).map fun k => s.mem.readLE (a + 2 * k) 2

/-- `n` bytes from `a`. -/
def bytesOf (s : State) (a n : Nat) : List Nat := (List.range n).map fun k => (s.mem.read (a + k)).toNat

/-- STATUS and ERR_INFO. -/
def errorWords (s : State) : Nat × Nat := ((readOffset 0x004 s).toNat, (readOffset 0x014 s).toNat)

/-- PIX_OUT after a single-pixel command on PIX_IN = `v`. -/
def pixOut (w v : Nat) (p : Params) : Nat :=
  (ran w (machine { p with pixIn := BitVec.ofNat 32 v } [])).pixOut.toNat

/-! Single-pixel commands. -/

/-- V104. -/
theorem test_nop :
    ran 0 State.reset = { State.reset with irqStatus := 1 } ∧ goesOn 0 State.reset = true := by decide +kernel
/-- V6, V3. -/
theorem test_pixYuv2rgb : pixOut 0x01 0x00F05A51 Params.reset = 0x000000FF ∧ pixOut 0x01 0 Params.reset = 0x00008700 := by
  decide +kernel
/-- V15, V17. -/
theorem test_pixPack565 : pixOut 0x02 0x00070307 Params.reset = 0 ∧ pixOut 0x02 0x003264C8 Params.reset = 0xCB26 := by
  decide +kernel
/-- V20, V23. -/
theorem test_pixUnpack565 :
    pixOut 0x03 0x0000F800 Params.reset = 0x000402FC ∧ pixOut 0x03 0xABCD8410 Params.reset = 0x00848284 := by
  decide +kernel

/-- The matrix of V24. -/
def balance : Ccm := ⟨0x0180, 0, 0, 0, 0x0100, 0, 0, 0, 0x00C0⟩
/-- The matrix of V28. -/
def mixing : Ccm := ⟨0x01C0, 0xFF80, 0xFFC0, 0xFFC0, 0x0180, 0xFFC0, 0x0000, 0xFF00, 0x0200⟩

/-- V24, V28. -/
theorem test_pixCcm :
    pixOut 0x04 0x80646464 { Params.reset with ccmEn := true, ccm := balance } = 0x804B6496 ∧
      pixOut 0x04 0x00143264 { Params.reset with ccmEn := true, ccm := mixing } = 0x00002D91 := by decide +kernel
/-- V30: the matrix is absent. -/
theorem test_pixCcm_absent : pixOut 0x04 0x81234567 { Params.reset with ccm := mixing } = 0x81234567 := by decide +kernel
/-- V40a. -/
theorem test_pixGamma : pixOut 0x05 0x80FF8000 Params.reset = 0x80FFBC00 := by decide +kernel
/-- V38, V39. -/
theorem test_gammaBuild :
    (readOffset 0x100 State.reset, readOffset 0x100 (ran 0x11 State.reset), readOffset 0x104 (ran 0x11 State.reset),
      readOffset 0x1FC (ran 0x11 State.reset)) = (0, 0x1C160D00, 0x2E2A2622, 0xFFFFFEFE) := by decide +kernel

/-! Colour correction and gamma over images. -/

/-- V35. -/
theorem test_ccmApplyRgb565 :
    halves (ran 0x10 (machine { sized 1 1 0x100 2 0x200 2 with ccmEn := true, ccm := balance }
      (put 0x100 [0x10, 0x84] []))) 0x200 1 = [0xC40C] := by decide +kernel
/-- V36. -/
theorem test_ccmApplyBgr888 :
    bytesOf (ran 0x00010110 (machine { sized 1 1 0x100 3 0x200 3 with ccmEn := true, ccm := mixing }
      (put 0x100 [0x14, 0x32, 0x64] []))) 0x200 3 = [0x00, 0x2D, 0x91] := by decide +kernel
/-- V37, in place (20_memory.md R94). -/
theorem test_ccmApplyArgb8888 :
    bytesOf (ran 0x00020210 (machine { sized 1 1 0x100 4 0x100 4 with ccmEn := true, ccm := mixing }
      (put 0x100 [0x1E, 0x14, 0x0A, 0x7F] []))) 0x100 4 = [0x28, 0x14, 0x00, 0x7F] := by decide +kernel
/-- V40b. -/
theorem test_gammaApplyRgb565 :
    halves (ran 0x12 (machine (sized 3 1 0x100 6 0x200 6) (put 0x100 [0x00, 0x00, 0xFF, 0xFF, 0x10, 0x84] []))) 0x200 3
      = [0x20A4, 0xFFFF, 0xBDF7] := by decide +kernel
/-- V40c. -/
theorem test_gammaApplyBgr888 :
    bytesOf (ran 0x00010112 (machine (sized 1 1 0x100 3 0x200 3) (put 0x100 [128, 64, 0] []))) 0x200 3
      = [188, 137, 0] := by decide +kernel
/-- From R152's entries 0, 64, 128: alpha is kept. -/
theorem test_gammaApplyArgb8888 :
    bytesOf (ran 0x00020212 (machine (sized 1 1 0x100 4 0x200 4) (put 0x100 [0x00, 0x40, 0x80, 0x7F] []))) 0x200 4
      = [0x00, 0x89, 0xBC, 0x7F] := by decide +kernel

/-! The demosaic of image Q. -/

/-- Image Q of 95_test_vectors.md. -/
def imageQ : Memory :=
  put 0x1000 [10, 20, 30, 40, 50, 60, 70, 80, 90, 100, 110, 120, 130, 140, 150, 160] []

/-- The (R, G, B) of the 16 destination pixels after a DEBAYER to BGR888. -/
def debayered (w : Nat) : List (Nat × Nat × Nat) :=
  let t := ran w (machine (sized 4 4 0x1000 4 0x2000 12) imageQ)
  (pixels 4 4).map fun c =>
    let a := 0x2000 + 12 * c.2 + 3 * c.1
    ((t.mem.read (a + 2)).toNat, (t.mem.read (a + 1)).toNat, (t.mem.read a).toNat)

/-- The spec's table for RGGB. -/
theorem test_debayerRggbBgr888 :
    debayered 0x00012020 = [
      (10, 35, 60), (20, 20, 60), (30, 50, 70), (30, 40, 80),
      (50, 50, 60), (60, 60, 60), (70, 70, 70), (70, 75, 80),
      (90, 95, 100), (100, 100, 100), (110, 110, 110), (110, 120, 120),
      (90, 130, 140), (100, 120, 140), (110, 150, 150), (110, 135, 160)] := by decide +kernel
/-- The spec's table for GRBG. -/
theorem test_debayerGrbgBgr888 :
    debayered 0x00012120 = [
      (20, 10, 50), (20, 40, 60), (30, 30, 70), (40, 55, 70),
      (60, 55, 50), (60, 60, 60), (70, 70, 70), (80, 80, 70),
      (100, 90, 90), (100, 100, 100), (110, 110, 110), (120, 115, 110),
      (100, 115, 130), (100, 140, 140), (110, 130, 150), (120, 160, 150)] := by decide +kernel
/-- The spec's table for GBRG. -/
theorem test_debayerGbrgBgr888 :
    debayered 0x00012220 = [
      (50, 10, 20), (60, 40, 20), (70, 30, 30), (70, 55, 40),
      (50, 55, 60), (60, 60, 60), (70, 70, 70), (70, 80, 80),
      (90, 90, 100), (100, 100, 100), (110, 110, 110), (110, 115, 120),
      (130, 115, 100), (140, 140, 100), (150, 130, 110), (150, 160, 120)] := by decide +kernel
/-- The spec's table for BGGR. -/
theorem test_debayerBggrBgr888 :
    debayered 0x00012320 = [
      (60, 35, 10), (60, 20, 20), (70, 50, 30), (80, 40, 30),
      (60, 50, 50), (60, 60, 60), (70, 70, 70), (80, 75, 70),
      (100, 95, 90), (100, 100, 100), (110, 110, 110), (120, 120, 110),
      (140, 130, 90), (140, 120, 100), (150, 150, 110), (160, 135, 110)] := by decide +kernel

/-- The RGB565 words of row 0 after a DEBAYER to RGB565. -/
def debayered565 (w n : Nat) : List Nat :=
  halves (ran w (machine (sized 4 4 0x1000 4 0x2000 8) imageQ)) 0x2000 n

/-- V41. -/
theorem test_debayerRggbRgb565 : debayered565 0x2020 4 = [0x0907, 0x10A7, 0x1988, 0x194A] := by decide +kernel
/-- V42. -/
theorem test_debayerGrbgRgb565 : debayered565 0x2120 1 = [0x1046] := by decide +kernel
/-- V42. -/
theorem test_debayerGbrgRgb565 : debayered565 0x2220 1 = [0x3042] := by decide +kernel
/-- V42. -/
theorem test_debayerBggrRgb565 : debayered565 0x2320 1 = [0x3901] := by decide +kernel

/-! The format converter, and DRAW of the same sources onto surface 1 in a bracket. -/

/-- The common parameters of 95_test_vectors.md §2.5: a 4 × 2 source at 0x100, a 4 × 2 RGB565 destination at 0x800; the
frame buffers are 4 × 2 with surface 1 at 0x800 too. -/
def stream (p0 b1 p1 b2 p2 : Nat) : Params :=
  { sized 4 2 0x100 p0 0x800 8 with
    srcBase1 := BitVec.ofNat 32 b1, srcPitch1 := BitVec.ofNat 32 p1, srcBase2 := BitVec.ofNat 32 b2
    srcPitch2 := BitVec.ofNat 32 p2, fbSize := 0x00020004, fbPitch := 8, fbBase0 := 0x900, fbBase1 := 0x800 }

/-- The luma rows. -/
def luma : Memory := put 0x100 [16, 81, 145, 235, 41, 128, 200, 255] []

/-- CONVERT's eight destination words. -/
def converted (sfmt : Nat) (p : Params) (m : Memory) : List Nat := halves (ran (0x30 + 256 * sfmt) (machine p m)) 0x800 8

/-- DRAW's eight destination words, inside a bracket. -/
def drawn (sfmt : Nat) (p : Params) (m : Memory) : List Nat :=
  halves (ran (0x51 + 256 * sfmt) { machine p m with inFrame := true }) 0x800 8

/-- V53. -/
theorem test_convertI420 :
    converted 0x10 (stream 4 0x200 2 0x300 2)
      (put 0x300 [240, 128] (put 0x200 [90, 128] luma)) =
      [0xB000, 0xF800, 0x94B2, 0xFFFF, 0xD000, 0xF9A6, 0xD6BA, 0xFFFF] := by decide +kernel
/-- V53's image, drawn. -/
theorem test_drawI420 :
    drawn 0x10 (stream 4 0x200 2 0x300 2)
      (put 0x300 [240, 128] (put 0x200 [90, 128] luma)) =
      [0xB000, 0xF800, 0x94B2, 0xFFFF, 0xD000, 0xF9A6, 0xD6BA, 0xFFFF] := by decide +kernel
/-- V54. -/
theorem test_convertYv12 :
    converted 0x11 (stream 4 0x300 2 0x200 2)
      (put 0x300 [240, 128] (put 0x200 [90, 128] luma)) =
      [0xB000, 0xF800, 0x94B2, 0xFFFF, 0xD000, 0xF9A6, 0xD6BA, 0xFFFF] := by decide +kernel
/-- V54's image, drawn. -/
theorem test_drawYv12 :
    drawn 0x11 (stream 4 0x300 2 0x200 2)
      (put 0x300 [240, 128] (put 0x200 [90, 128] luma)) =
      [0xB000, 0xF800, 0x94B2, 0xFFFF, 0xD000, 0xF9A6, 0xD6BA, 0xFFFF] := by decide +kernel
/-- V57. -/
theorem test_convertI422 :
    converted 0x12 (stream 4 0x200 2 0x300 2)
      (put 0x300 [240, 128, 34, 110] (put 0x200 [90, 128, 54, 240] luma)) =
      [0xB000, 0xF800, 0x94B2, 0xFFFF, 0x0420, 0x0760, 0xBDDF, 0xFFDF] := by decide +kernel
/-- V57's image, drawn. -/
theorem test_drawI422 :
    drawn 0x12 (stream 4 0x200 2 0x300 2)
      (put 0x300 [240, 128, 34, 110] (put 0x200 [90, 128, 54, 240] luma)) =
      [0xB000, 0xF800, 0x94B2, 0xFFFF, 0x0420, 0x0760, 0xBDDF, 0xFFDF] := by decide +kernel
/-- V60. -/
theorem test_convertI444 :
    converted 0x13 (stream 4 0x200 4 0x300 4)
      (put 0x300 [240, 128, 34, 110, 128, 240, 110, 34] (put 0x200 [90, 128, 54, 240, 128, 90, 240, 54] luma)) =
      [0xB000, 0x4A69, 0x07E0, 0xE71F, 0x18E3, 0xF9A6, 0xBDDF, 0x87F0] := by decide +kernel
/-- V60's image, drawn. -/
theorem test_drawI444 :
    drawn 0x13 (stream 4 0x200 4 0x300 4)
      (put 0x300 [240, 128, 34, 110, 128, 240, 110, 34] (put 0x200 [90, 128, 54, 240, 128, 90, 240, 54] luma)) =
      [0xB000, 0x4A69, 0x07E0, 0xE71F, 0x18E3, 0xF9A6, 0xBDDF, 0x87F0] := by decide +kernel
/-- V61. -/
theorem test_convertI400 :
    converted 0x14 (stream 4 0 0 0 0)
      luma =
      [0x0000, 0x4A69, 0x94B2, 0xFFFF, 0x18E3, 0x8410, 0xD6BA, 0xFFFF] := by decide +kernel
/-- V61's image, drawn. -/
theorem test_drawI400 :
    drawn 0x14 (stream 4 0 0 0 0)
      luma =
      [0x0000, 0x4A69, 0x94B2, 0xFFFF, 0x18E3, 0x8410, 0xD6BA, 0xFFFF] := by decide +kernel
/-- V55. -/
theorem test_convertNv12 :
    converted 0x18 (stream 4 0x400 4 0 0)
      (put 0x400 [0x5A, 0xF0, 0x80, 0x80] luma) =
      [0xB000, 0xF800, 0x94B2, 0xFFFF, 0xD000, 0xF9A6, 0xD6BA, 0xFFFF] := by decide +kernel
/-- V55's image, drawn. -/
theorem test_drawNv12 :
    drawn 0x18 (stream 4 0x400 4 0 0)
      (put 0x400 [0x5A, 0xF0, 0x80, 0x80] luma) =
      [0xB000, 0xF800, 0x94B2, 0xFFFF, 0xD000, 0xF9A6, 0xD6BA, 0xFFFF] := by decide +kernel
/-- V56. -/
theorem test_convertNv21 :
    converted 0x19 (stream 4 0x400 4 0 0)
      (put 0x400 [0x5A, 0xF0, 0x80, 0x80] luma) =
      [0x001C, 0x09FF, 0x94B2, 0xFFFF, 0x009F, 0x43BF, 0xD6BA, 0xFFFF] := by decide +kernel
/-- V56's image, drawn. -/
theorem test_drawNv21 :
    drawn 0x19 (stream 4 0x400 4 0 0)
      (put 0x400 [0x5A, 0xF0, 0x80, 0x80] luma) =
      [0x001C, 0x09FF, 0x94B2, 0xFFFF, 0x009F, 0x43BF, 0xD6BA, 0xFFFF] := by decide +kernel
/-- V58. -/
theorem test_convertYuy2 :
    converted 0x1C (stream 8 0 0 0 0)
      (put 0x100 [16, 90, 81, 240, 145, 128, 235, 128, 41, 54, 128, 34, 200, 240, 255, 110] []) =
      [0xB000, 0xF800, 0x94B2, 0xFFFF, 0x0420, 0x0760, 0xBDDF, 0xFFDF] := by decide +kernel
/-- V58's image, drawn. -/
theorem test_drawYuy2 :
    drawn 0x1C (stream 8 0 0 0 0)
      (put 0x100 [16, 90, 81, 240, 145, 128, 235, 128, 41, 54, 128, 34, 200, 240, 255, 110] []) =
      [0xB000, 0xF800, 0x94B2, 0xFFFF, 0x0420, 0x0760, 0xBDDF, 0xFFDF] := by decide +kernel
/-- V59. -/
theorem test_convertUyvy :
    converted 0x1D (stream 8 0 0 0 0)
      (put 0x100 [90, 16, 240, 81, 128, 145, 128, 235, 54, 41, 34, 128, 240, 200, 110, 255] []) =
      [0xB000, 0xF800, 0x94B2, 0xFFFF, 0x0420, 0x0760, 0xBDDF, 0xFFDF] := by decide +kernel
/-- V59's image, drawn. -/
theorem test_drawUyvy :
    drawn 0x1D (stream 8 0 0 0 0)
      (put 0x100 [90, 16, 240, 81, 128, 145, 128, 235, 54, 41, 34, 128, 240, 200, 110, 255] []) =
      [0xB000, 0xF800, 0x94B2, 0xFFFF, 0x0420, 0x0760, 0xBDDF, 0xFFDF] := by decide +kernel

/-- V62's image as a 4 × 1 source. -/
def bgrRow : Memory := put 0x100 [0x00, 0x00, 0xFF, 0x00, 0xFF, 0x00, 0xFF, 0x00, 0x00, 0x32, 0x64, 0xC8] []

/-- V62. -/
theorem test_convertBgr888 :
    halves (ran 0x130 (machine { sized 4 1 0x100 12 0x800 8 with dstSize := 0x00020004 } bgrRow)) 0x800 4
      = [0xF800, 0x07E0, 0x001F, 0xCB26] := by decide +kernel
/-- V62's image, drawn. -/
theorem test_drawBgr888 :
    halves (ran 0x151 { machine { stream 12 0 0 0 0 with srcSize := 0x00010004 } bgrRow with inFrame := true }) 0x800 4
      = [0xF800, 0x07E0, 0x001F, 0xCB26] := by decide +kernel

/-- The frame buffers of V84 and V85. -/
def panel : Params :=
  { Params.reset with fbSize := 0x00F00140, fbPitch := 640, fbBase0 := 0x20000000, fbBase1 := 0x20030000 }

/-- V84: one column of the logo lands; nothing else is written. -/
theorem test_drawRgb565 :
    (ran 0x51 { machine { panel with srcSize := 0x00020002, srcBase0 := 0x30000000, srcPitch0 := 4, dstPos := 0x00EE013F }
      (put 0x30000000 [0x00, 0xF8, 0xE0, 0x07, 0x1F, 0x00, 0xFF, 0xFF] []) with inFrame := true }).mem
      = put 0x2005557E [0x00, 0xF8] (put 0x200557FE [0x1F, 0x00]
          (put 0x30000000 [0x00, 0xF8, 0xE0, 0x07, 0x1F, 0x00, 0xFF, 0xFF] [])) := by decide +kernel
/-- V85: the row at (316, 239). -/
theorem test_drawI400_place :
    let t := ran 0x1451 { machine { panel with
      srcSize := 0x00010004, srcBase0 := 0x100, srcPitch0 := 4, dstPos := 0x00EF013C } luma with inFrame := true }
    halves t 0x200557F8 4 = [0x0000, 0x4A69, 0x94B2, 0xFFFF] ∧
      (t.mem.read 0x200557F7, t.mem.read 0x20055800) = (0, 0) := by decide +kernel

/-- V64: clipping at (3, 2) of a 5 × 3 destination filled with 0xAA. -/
theorem test_convertI420_clipped :
    (ran 0x1030 (machine { stream 4 0x200 2 0x300 2 with dstSize := 0x00030005, dstPitch := 10, dstPos := 0x00020003 }
      (put 0x800 (List.replicate 30 0xAA) (put 0x300 [240, 128] (put 0x200 [90, 128] luma))))).mem
      = put 0x81A [0x00, 0xB0, 0x00, 0xF8]
          (put 0x800 (List.replicate 30 0xAA) (put 0x300 [240, 128] (put 0x200 [90, 128] luma))) := by decide +kernel

/-! The frame buffer manager and the bracket. -/

/-- V75, V76. -/
theorem test_present :
    let t := ran 0x40 (machine panel [])
    (t.phase, (readOffset 0x004 t).toNat, t.dispReq, t.dispAddr) = (.waitVsync, 0x11, true, 0x20030000) ∧
      ((readOffset 0x0CC (vsyncAck t)).toNat, readOffset 0x0E0 (vsyncAck t), (vsyncAck t).irqStatus, (vsyncAck t).dispReq)
        = (1, 0x20030000, 1, false) := by decide +kernel
/-- V88. -/
theorem test_present_inFrame :
    errorWords (ran 0x40 { machine panel [] with inFrame := true }) = (0x20A, 0x640) := by decide +kernel
theorem test_beginFrame : (readOffset 0x004 (ran 0x50 State.reset)).toNat = 0x8 := by decide +kernel
/-- V87. -/
theorem test_beginFrame_twice : errorWords (ran 0x50 { State.reset with inFrame := true }) = (0x20A, 0x650) := by
  decide +kernel
theorem test_endFrame : (readOffset 0x004 (ran 0x52 { State.reset with inFrame := true })).toNat = 0 := by decide +kernel
/-- V89. -/
theorem test_endFrame_outside : errorWords (ran 0x52 State.reset) = (0x202, 0x552) := by decide +kernel

/-! Errors. -/

/-- V50, V51. -/
theorem test_debayer_errors :
    errorWords (ran 0x12020 (machine (sized 3 4 0x1000 4 0x2000 12) imageQ)) = (0x402, 0x00000B20) ∧
      errorWords (ran 0x12020 (machine { sized 4 4 0x1000 4 0x2000 12 with dstSize := 0x00020004 } imageQ))
        = (0x402, 0x00030C20) := by decide +kernel
/-- V66, V68, V69, V70, V72, V73. -/
theorem test_convert_errors :
    ([{ stream 4 0x200 2 0x300 2 with srcSize := 0x00020003 }, { stream 4 0x200 1 0x300 2 with ccmEn := false },
      { stream 4 0x200 2 0x300 2 with dstPitch := 7 },
      { stream 16 0x200 2 0x300 2 with srcBase0 := 0xFFFFFFF0 }, { stream 4 0x200 2 0x300 2 with srcSize := 0x00020000 },
      { stream 4 0x200 2 0x300 2 with dstSize := 0x00000004 }].map fun p => errorWords (ran 0x1030 (machine p luma)))
      = [(0x402, 0x00000B30), (0x402, 0x00010D30), (0x402, 0x00030E30), (0x402, 0x00000F30), (0x402, 0x00000930),
        (0x402, 0x00030A30)] := by decide +kernel
/-- V86, V90. -/
theorem test_draw_errors :
    errorWords (ran 0x51 State.reset) = (0x202, 0x551) ∧
      errorWords (ran 0x1051 { machine { panel with srcSize := 0x00020003 } [] with inFrame := true })
        = (0x40A, 0xB51) := by decide +kernel
/-- V91–V98, V71, V52. -/
theorem test_word_errors :
    ([0x01000000, 0x00000006, 0x00000101, 0x00000330, 0x00FF1030, 0x00101010, 0x00010010, 0x00000230, 0x00022020].map
      fun w => errorWords (ran w State.reset))
      = [(0x102, 0x100), (0x102, 0x206), (0x102, 0x301), (0x102, 0x330), (0x102, 0x430), (0x302, 0x710),
        (0x302, 0x30810), (0x402, 0x730), (0x402, 0x30820)] := by decide +kernel
/-- V98: check 12, and the table is not built. -/
theorem test_gammaApply_error :
    let t := ran 0x12 (machine { sized 4 2 0x100 8 0x200 8 with dstSize := 0x00020002 } [])
    errorWords t = (0x402, 0x00030C12) ∧ t.lutValid = false := by decide +kernel
/-- V99's case on V53's image: a bus error on the write of 0x80A. -/
theorem test_busError :
    let t := ran 0x1030 { machine (stream 4 0x200 2 0x300 2) luma with busErrors := [(0x80A, 0x80A)] }
    errorWords t = (0x502, 0x00031030) ∧ readOffset 0x018 t = 0x80A := by decide +kernel
/-- V82, V83. -/
theorem test_displayError :
    (match displayError (ran 0x40 (machine panel [])), displayError State.reset with
      | .next t, .next u => (errorWords t, t.dispReq, t.activeIdx, errorWords u)
      | _, _ => ((0, 0), true, 1, (0, 0)))
      = ((0x502, 0x1140), false, 0, (0x502, 0x1100)) := by decide +kernel
/-- V78, V79, V81, V102: register writes. -/
theorem test_registerWrites :
    writeOffset 0x0C0 5 State.reset = .next State.reset ∧
      writeOffset 0x0C0 3 { State.reset with activeIdx := 1 }
        = .next { State.reset with params := { Params.reset with fbN := 3 } } ∧
      writeOffset 0x010 0x40 { State.reset with phase := .waitVsync }
        = .next { State.reset with phase := .waitVsync, irqStatus := 4 } ∧
      writeOffset 0x008 2 { State.reset with irqStatus := 3 } = .next { State.reset with irqStatus := 1 } :=
  ⟨rfl, rfl, rfl, rfl⟩
/-- R286: of a VSYNC_ACK and a DISP_ERR in one cycle, DISP_ERR is performed first. -/
theorem test_cycleOrder :
    (firstEvent { State.reset with phase := .waitVsync } [.vsyncAck, .dispErr]).map Prod.fst = some .dispErr := by
  decide +kernel

/-! For every statement with hypotheses, a concrete state that meets them, at the boundaries of its clauses. -/

/-- One step of the machine; the state itself where the step stops. -/
def stepped (s : State) : State :=
  match step s with
  | .next t => t
  | .fault _ => s
  | .refused _ => s

/-- The step ends in a next state. -/
def steps (s : State) : Bool :=
  match step s with
  | .next _ => true
  | .fault _ => false
  | .refused _ => false

theorem step_of_steps {s : State} (h : steps s = true) : step s = .next (stepped s) := by
  unfold steps at h
  unfold stepped
  split at h <;> simp_all

/-- The plane passes checks 13 to 15. -/
def fits (k : Plane) : Bool :=
  decide (0 < k.rows ∧ 0 < k.rowBytes ∧ k.rowBytes ≤ k.pitch ∧ k.last < Config.addressSpace)

theorem sound_of_fits {k : Plane} {s : State} (hb : s.busErrors = []) (h : fits k = true) : k.sound s := by
  obtain ⟨h1, h2, h3, h4⟩ := of_decide_eq_true h
  exact ⟨h1, h2, h3, h4, fun a _ _ => by simp [State.busErrorAt, hb]⟩

theorem streamReady_of_fits {f : StreamFormat} {s : State} {dst : Surface} (hb : s.busErrors = [])
    (h : (0 < s.params.srcW ∧ 0 < s.params.srcH) ∧ f.oddSize s.params.srcW s.params.srcH = false ∧
      (f.planes s.params).all (fun k => fits k && !k.meets (dst.plane 2)) = true ∧ fits (dst.plane 2) = true ∧
      s.mem.wf = true) : StreamReady f s dst := by
  obtain ⟨h1, h2, h3, h4, h5⟩ := h
  refine ⟨h1, h2, fun k hk => ?_, sound_of_fits hb h4, h5⟩
  have := List.all_eq_true.1 h3 k hk
  simp only [Bool.and_eq_true, Bool.not_eq_true'] at this
  exact ⟨sound_of_fits hb this.1, this.2⟩

theorem sameSizeReady_of_fits {k : Plane} {bpp : Nat} {s : State} (hb : s.busErrors = [])
    (h : (0 < s.params.srcW ∧ 0 < s.params.srcH) ∧
      (s.params.dstW = s.params.srcW ∧ s.params.dstH = s.params.srcH) ∧ fits k = true ∧
      fits (s.params.dstSurface.plane bpp) = true ∧ s.mem.wf = true) : SameSizeReady k bpp s :=
  ⟨h.1, h.2.1, sound_of_fits hb h.2.2.1, sound_of_fits hb h.2.2.2.1, h.2.2.2.2⟩

theorem witness_DecodeAndEncodeAgree :
    Instr.drawUyvy.wellFormed = true ∧ decode 0x00001D51 = .ok .drawUyvy ∧
      (CmdFields.ofWord 0x00001D51).wellFormed = true := by decide

theorem witness_StepRunsDecodedCommand :
    (State.reset.withFetchWord 32 0x12020).phase = .exec ∧
      decode (State.reset.withFetchWord 32 0x12020).curCmd = .ok .debayerRggbBgr888 ∧
      Instr.debayerRggbBgr888.wellFormed = true ∧
      (State.reset.withFetchWord 32 0x12020).nextEvent = some .command ∧
      { State.reset with phase := .exec }.nextEvent = some .command := by decide

/-- Words of every error of the decoder. -/
theorem witness_IllegalWordEntersFailed :
    ∀ q ∈ ([(0x01000000, .reservedBits), (0xFF000000, .reservedBits), (0x06, .undefinedOp), (0x53, .undefinedOp),
        (0x101, .illegalSource), (0x330, .illegalSource), (0x10040, .illegalDestination),
        (0xFF1030, .illegalDestination), (0x251, .unsupportedSource .draw), (0x10051, .unsupportedDestination .draw),
        (0x101010, .unsupportedSource .ccmApply), (0x101012, .unsupportedSource .gammaApply),
        (0x10010, .unsupportedDestination .ccmApply), (0x112, .unsupportedDestination .gammaApply),
        (0x20, .unsupportedSource .debayer), (0x30, .unsupportedSource .convert),
        (0x22020, .unsupportedDestination .debayer), (0x10130, .unsupportedDestination .convert)] :
        List (Nat × DecodeError)), ∀ b : Bool,
      let s := { State.reset.withFetchWord 32 q.1 with inFrame := b }
      s.phase = .exec ∧ s.nextEvent = some .command ∧ decode s.curCmd = .error q.2 ∧ s.inFrame = b := by decide +kernel

/-- A state whose surface `a` of `n` is active. -/
def presentingOf (n : BitVec 3) (a : BitVec 2) : State := { machine { panel with fbN := n } [] with activeIdx := a }

/-- The last of four surfaces is active. -/
def presenting : State := presentingOf 4 3

theorem presentingOf_inv {n : BitVec 3} {a : BitVec 2} (hn : legalSurfaceCount n = true) (ha : a.toNat < n.toNat) :
    (presentingOf n a).Inv where
  memWf := rfl
  surfaceCount := hn
  activeInRange := ha
  lutSize := by simp [presentingOf, machine, State.reset]
  lutTable := by simp [presentingOf, machine, State.reset]
  noErrorHeld := fun _ => ⟨rfl, rfl, rfl, rfl, rfl⟩
  errorHeld := by simp [presentingOf, machine, State.reset]
  addressOfBusError := by simp [presentingOf, machine, State.reset]
  requestLine := by simp [presentingOf, machine, State.reset]
  requestAddress := by simp [presentingOf, machine, State.reset]
  waiting := by simp [presentingOf, machine, State.reset]

theorem presenting_inv : presenting.Inv := presentingOf_inv (by decide) (by decide)

theorem witness_StepKeepsInvariant : presenting.Inv ∧ steps presenting = true := ⟨presenting_inv, by decide +kernel⟩
theorem witness_SurfaceViews : presenting.Inv := presenting_inv

/-- The machine waiting for a vertical sync. -/
def waiting : State :=
  { State.reset with phase := .waitVsync, presentTarget := 1, dispReq := true, curCmd := 0x40 }

theorem waiting_inv : waiting.Inv where
  memWf := rfl
  surfaceCount := by decide
  activeInRange := by decide
  lutSize := by simp [waiting, State.reset]
  lutTable := by simp [waiting, State.reset]
  noErrorHeld := fun _ => ⟨rfl, rfl, rfl, rfl, rfl⟩
  errorHeld := by simp [waiting]
  addressOfBusError := by simp [waiting, State.reset]
  requestLine := by simp [waiting]
  requestAddress := by decide
  waiting := fun _ => ⟨by decide, rfl, by decide⟩

/-- Every transition of the table happens. -/
theorem witness_PhaseTransitions :
    ∀ q ∈ [({ State.reset with inputs := [[.hostStore 0xFFFFF010 .word 0x40]] }, Phase.exec),
        (State.reset.withFetchWord 32 0x00, .idle), (State.reset.withFetchWord 32 0x40, .waitVsync),
        ({ waiting with inputs := [[.vsyncAck]] }, .idle), (State.reset.withFetchWord 32 0x06, .failed),
        ({ State.reset with inputs := [[.dispErr]] }, .failed), ({ waiting with inputs := [[.dispErr]] }, .failed),
        ({ waiting with inputs := [[.hardwareReset]] }, .idle)],
      steps q.1 = true ∧ (stepped q.1).phase = q.2 ∧ (stepped q.1).phase ≠ q.1.phase := by decide +kernel

theorem witness_FailedLeftOnlyByReset :
    let s : State := { State.reset with phase := .failed, errCode := .illegalCmd, inputs := [[.hardwareReset]] }
    s.phase = .failed ∧ steps s = true ∧ (stepped s).phase ≠ .failed := by decide +kernel

theorem witness_ActiveIndexChangesThreeWays :
    ∀ s ∈ [{ waiting with inputs := [[.vsyncAck]] },
        { presenting with inputs := [[.hostStore 0xFFFFF0C0 .word 2]] },
        { presenting with inputs := [[.hostStore 0xFFFFF000 .word 1]] },
        { presenting with inputs := [[.hardwareReset]] }],
      steps s = true ∧ (stepped s).activeIdx ≠ s.activeIdx := by decide +kernel

theorem witness_ParametersFrozenWhileBusy :
    let s : State := { waiting with params := panel, inputs := [[.hardwareReset]] }
    s.busy = true ∧ steps s = true ∧ (stepped s).params ≠ s.params := by decide +kernel

theorem witness_GammaTableImmutableUntilReset :
    ∀ e ∈ [Event.command, .hardwareReset],
      let s : State := { State.reset with lutValid := true, inputs := [[e]] }
      s.lutValid = true ∧ steps s = true := by decide +kernel

theorem witness_ResetRestoresEngine :
    (∃ u, perform .hardwareReset presenting = .next u) ∧ (∃ u, perform .hardwareReset waiting = .next u) ∧
      presenting.phase ≠ .exec ∧ waiting.phase ≠ .exec ∧ (1 : Word).toNat % 2 = 1 ∧ (0xFFFFFFFF : Word).toNat % 2 = 1 :=
  ⟨⟨_, rfl⟩, ⟨_, rfl⟩, by decide, by decide, by decide, by decide⟩

/-- CONVERT.I420 of V53, accepted. -/
def converting : State :=
  (machine (stream 4 0x200 2 0x300 2) (put 0x300 [240, 128] (put 0x200 [90, 128] luma))).withFetchWord 32 0x1030

theorem converting_plan :
    converting.mem.wf = true ∧ converting.phase = .exec ∧ decode converting.curCmd = .ok .convertI420 ∧
      commandPlan .convertI420 converting = some (convertPlan .i420 converting) ∧
      (convertPlan .i420 converting).failure = none ∧ (convertPlan .i420 converting).overlaps = false :=
  ⟨by decide +kernel, rfl, by decide +kernel, rfl, by decide +kernel, by decide +kernel⟩

/-- CONVERT.I420 of V53 onto its own luma plane, accepted. -/
def overlapping : State := { converting with params := { converting.params with dstBase := 0x100 } }

/-- The clauses: commands without a plan, a plan of disjoint planes, a plan of overlapping ones. -/
theorem witness_ResetDuringExecOldOrNew :
    (∀ w ∈ [0x00, 0x11, 0x40, 0x53],
      let s := State.reset.withFetchWord 32 w
      s.phase = .exec ∧ ∀ i p, decode s.curCmd = .ok i → commandPlan i s = some p → p.failure ≠ none) ∧
    (converting.mem.wf = true ∧ converting.phase = .exec ∧ decode converting.curCmd = .ok .convertI420 ∧
      commandPlan .convertI420 converting = some (convertPlan .i420 converting) ∧
      (convertPlan .i420 converting).failure = none ∧ (convertPlan .i420 converting).overlaps = false) ∧
    (overlapping.phase = .exec ∧ decode overlapping.curCmd = .ok .convertI420 ∧
      commandPlan .convertI420 overlapping = some (convertPlan .i420 overlapping) ∧
      (convertPlan .i420 overlapping).failure = none ∧ (convertPlan .i420 overlapping).overlaps = true) := by
  refine ⟨fun w hw => ⟨rfl, fun i p hi hp => ?_⟩, converting_plan,
    ⟨rfl, by decide +kernel, rfl, by decide +kernel, by decide +kernel⟩⟩
  simp only [List.mem_cons, List.not_mem_nil, or_false] at hw
  rcases hw with rfl | rfl | rfl | rfl
  · obtain rfl := Except.ok.inj (hi.symm.trans (by decide : decode 0x00 = .ok .nop))
    cases hp
  · obtain rfl := Except.ok.inj (hi.symm.trans (by decide : decode 0x11 = .ok .gammaBuild))
    cases hp
  · obtain rfl := Except.ok.inj (hi.symm.trans (by decide : decode 0x40 = .ok .present))
    cases hp
  · have := hi.symm.trans (by decide : decode 0x53 = .error .undefinedOp)
    simp at this

/-- A state of every phase; the WAIT_VSYNC one meets the invariant; in EXEC without a plan,
with one of disjoint planes and with one of overlapping planes. -/
theorem witness_DisplayErrorDuringExec :
    ({ State.reset with phase := .failed }.phase = .failed ∧ State.reset.phase = .idle) ∧
    (waiting.phase = .waitVsync ∧ waiting.Inv) ∧
    (let s := State.reset.withFetchWord 32 0x11
     s.phase = .exec ∧ ∀ i p, decode s.curCmd = .ok i → commandPlan i s = some p → p.failure ≠ none) ∧
    (converting.mem.wf = true ∧ converting.phase = .exec ∧ decode converting.curCmd = .ok .convertI420 ∧
      commandPlan .convertI420 converting = some (convertPlan .i420 converting) ∧
      (convertPlan .i420 converting).failure = none ∧ (convertPlan .i420 converting).overlaps = false) ∧
    (overlapping.phase = .exec ∧ decode overlapping.curCmd = .ok .convertI420 ∧
      commandPlan .convertI420 overlapping = some (convertPlan .i420 overlapping) ∧
      (convertPlan .i420 overlapping).failure = none ∧ (convertPlan .i420 overlapping).overlaps = true) :=
  ⟨⟨rfl, rfl⟩, ⟨rfl, waiting_inv⟩, witness_ResetDuringExecOldOrNew.1 0x11 (by decide), converting_plan,
    witness_ResetDuringExecOldOrNew.2.2⟩

/-- The ranges: luma 0x100–0x107, U 0x200–0x201, V 0x300–0x301, destination 0x800–0x80F; the accesses touch their ends. -/
theorem witness_HostRaceRefused :
    let p := convertPlan .i420 converting
    converting.phase = .exec ∧ decode converting.curCmd = .ok .convertI420 ∧
      commandPlan .convertI420 converting = some p ∧ p.failure = none ∧
      (∀ q ∈ [((0x107 : Word), AccessSize.byte), (0x0FD, .word), (0x201, .half), (0x301, .byte), (0x80F, .word)],
        converting.hitsBlock q.1 q.2 = false ∧ q.1.toNat + q.2.bytes ≤ 4294967296 ∧
          ∃ k ∈ p.dest :: p.sources, q.1.toNat ≤ k.last ∧ k.base < q.1.toNat + q.2.bytes) ∧
      (∀ q ∈ [((0x7FF : Word), AccessSize.half), (0x80F, .byte)],
        q.1.toNat ≤ p.dest.last ∧ p.dest.base < q.1.toNat + q.2.bytes) :=
  ⟨rfl, by decide +kernel, rfl, by decide +kernel, by decide +kernel, by decide +kernel⟩

/-- The same with a bus error on one byte. -/
def convertingWith (a : Nat) : State := { converting with busErrors := [(BitVec.ofNat 32 a, BitVec.ofNat 32 a)] }

/-- A required read and a required write that get a bus error; each stops the command at some access. -/
theorem witness_BusErrorStopsCommand :
    ∀ b ∈ [0x100, 0x80F],
      let s := convertingWith b
      let p := convertPlan .i420 s
      s.mem.wf = true ∧ s.phase = .exec ∧ commandPlan .convertI420 s = some p ∧ p.failure = none ∧ p.overlaps = false ∧
        (∃ x ∈ p.reads ++ p.stores.map Store.access, s.busErrorOn x = true) ∧ ∃ a, p.busFault s = some a := by
  have checked : ∀ b ∈ [0x100, 0x80F],
      let s := convertingWith b
      let p := convertPlan .i420 s
      s.mem.wf = true ∧ p.failure = none ∧ p.overlaps = false ∧
        (p.reads ++ p.stores.map Store.access).any s.busErrorOn = true := by decide +kernel
  intro b hb
  obtain ⟨h1, h2, h3, h4⟩ := checked b hb
  have h := List.any_eq_true.1 h4
  have plan : commandPlan .convertI420 (convertingWith b) = some (convertPlan .i420 (convertingWith b)) := rfl
  exact ⟨h1, rfl, plan, h2, h3, h, commandPlan_busFault plan h⟩

/-- In place the read of a pixel meets the bus error before its write: PLANE 0 (20_memory.md R94). -/
theorem test_busError_inPlace :
    let t := ran 0x00020210 { machine (sized 1 1 0x100 4 0x100 4) [] with busErrors := [(0x102, 0x102)] }
    errorWords t = (0x502, 0x00001010) ∧ readOffset 0x018 t = 0x100 := by decide +kernel

/-- R110: `set_ccm` stores its 32-bit operands' low 16 bits. -/
theorem test_setCcm :
    (Pseudo.setCcm 0xFFFFFF80 0x18000 0 0 0 0 0 0 0x100).expand =
      [.wr .ccmC00 0xFF80, .wr .ccmC01 0x8000, .wr .ccmC02 0, .wr .ccmC10 0, .wr .ccmC11 0, .wr .ccmC12 0,
        .wr .ccmC20 0, .wr .ccmC21 0, .wr .ccmC22 0x100, .wr .ccmCtrl 1] := by decide

/-- R129: the end of a run waits for the host's actions only, whatever other agents may still do. -/
theorem test_runEnded :
    (∀ cycle ∈ [[], [Event.vsyncAck], [.dispErr], [.hardwareReset], [.command]],
      { State.reset with inputs := [cycle] }.endedCleanly = true ∧
        { State.reset with phase := .failed, inputs := [cycle] }.endedInFault = true) ∧
    (∀ e ∈ [Event.hostLoad 0 .word, .hostStore 0 .word 0, .displayConfigure 0],
      { State.reset with inputs := [[.vsyncAck], [e]] }.runEnded = false) ∧
    waiting.runEnded = false := by decide

/-- The destination begins at the last byte of the luma plane; and an exact in-place correction. -/
theorem witness_OverlapRefused :
    (let s := machine { stream 4 0x200 2 0x300 2 with dstBase := 0x107 } luma
     let p := convertPlan .i420 s
     commandPlan .convertI420 s = some p ∧ p.failure = none ∧ p.inPlace = false ∧
       ∃ k ∈ p.sources, k.base ≤ p.dest.last ∧ p.dest.base ≤ k.last) ∧
    (let s := machine (sized 1 1 0x100 4 0x100 4) []
     let p := ccmPlan .argb8888 s
     commandPlan .ccmApplyArgb8888 s = some p ∧ p.failure = none ∧ p.inPlace = true ∧
       ∃ k ∈ p.sources, k.base ≤ p.dest.last ∧ p.dest.base ≤ k.last) :=
  ⟨⟨rfl, by decide +kernel, by decide +kernel, by decide +kernel⟩,
    ⟨rfl, by decide +kernel, by decide +kernel, by decide +kernel⟩⟩

theorem witness_ChecksPrecedeEffects :
    let s : State := { State.reset with phase := .exec, inFrame := true, curCmd := 0x50 }
    s.phase = .exec ∧ s.nextEvent = some .command ∧ step s = .next (raiseFailure bracketOpen s) ∧
      (raiseFailure bracketOpen s).phase = .failed ∧ (raiseFailure bracketOpen s).errCheck ≠ 16 :=
  ⟨rfl, rfl, rfl, rfl, by decide⟩

/-- Each check's clause is reached: `test_convert_errors`, `test_draw_errors`. -/
theorem witness_StreamChecksInOrder :
    converting.phase = .exec ∧ converting.inFrame = false ∧ { converting with inFrame := true }.inFrame = true ∧
      Instr.convertI420 ≠ .drawI420 := by decide

/-- Each check's clause is reached: `test_debayer_errors`, `test_gammaApply_error`. -/
theorem witness_SameSizeChecksInOrder :
    ((machine (sized 3 4 0x1000 4 0x2000 12) imageQ).withFetchWord 32 0x12020).phase = .exec := rfl

theorem witness_ParameterWriteWhileBusyRejected :
    { State.reset with phase := .exec }.busy = true ∧ waiting.busy = true := by decide

/-- Offsets in the gaps of the map, at the ends of the window, off a word, and above the map. -/
theorem witness_OtherWritesIgnored :
    (∀ off ∈ [0x004, 0x100, 0x1FC], regAt off ≠ none) ∧
    (∀ off ∈ [0x01C, 0x02C, 0x030, 0x038, 0x05C, 0x078, 0x0AC, 0x0B8, 0x0EC, 0x0FC, 0x102, 0x1FE, 0x200, 0xFFC],
      ¬ (0x100 ≤ off ∧ off ≤ 0x1FC ∧ off % 4 = 0) ∧ regAt off = none) ∧
    (2 : Word).toNat % 2 = 0 := by decide

theorem witness_ParameterReadBack :
    State.reset.busy = false ∧ { State.reset with phase := .failed }.busy = false ∧
      (∀ off ∈ [0x020, 0x040, 0x060, 0x06C, 0x0DC], regAt off ≠ none) ∧ (0xFFFF0001 : Word).toNat % 65536 = 1 ∧
      (0xFFFF0001 : Word).toNat / 65536 = 0xFFFF := by decide
theorem witness_CoefficientReadBack :
    State.reset.busy = false ∧ { State.reset with phase := .failed }.busy = false ∧
      regAt (0x084 + 4 * (3 * 0 + 0)) = some .ccmC00 ∧ regAt (0x084 + 4 * (3 * 2 + 2)) = some .ccmC22 := by decide
theorem witness_SurfaceCountWriteAnyReadLegal :
    presenting.Inv ∧ State.reset.busy = false ∧ (2 : Word).toNat % 8 = 2 ∧ (4 : Word).toNat % 8 = 4 ∧
      (5 : Word).toNat % 8 = 5 :=
  ⟨presenting_inv, rfl, rfl, rfl, rfl⟩

theorem witness_SetWinsOverClear :
    let clear : Event := .hostStore 0xFFFFF008 .word 1
    ∀ q ∈ [(waiting, Event.vsyncAck), (State.reset, .dispErr), (waiting, .dispErr),
        ({ State.reset with phase := .exec, curCmd := encode .nop }, .command)],
      ∀ cycle ∈ [[q.2, clear], [clear, q.2]],
        let s : State := { q.1 with inputs := [cycle] }
        s.phase = q.1.phase ∧ s.hitsBlock 0xFFFFF008 .word = true ∧
          s.storeTarget 0xFFFFF008 .word = some .irqStatus ∧ s.inputs = cycle :: [] := by decide +kernel

theorem witness_DisplayErrorBeatsAcknowledge :
    ∀ cycle ∈ [[Event.vsyncAck, .dispErr], [.dispErr, .vsyncAck]],
      let s : State := { waiting with inputs := [cycle] }
      s.phase = .waitVsync ∧ s.inputs = cycle :: [] := by decide

theorem witness_CommandAcceptance : State.reset.phase = .idle := rfl
theorem witness_NopCompletes :
    (0x00000100 : Word).toNat % 256 = 0 ∧ (0x00000100 : Word) ≠ 0 ∧ { State.reset with phase := .failed }.phase = .failed := by
  decide
theorem witness_CommandRejection :
    ∀ p ∈ [Phase.exec, .waitVsync, .failed], { State.reset with phase := p }.phase ∈ [Phase.exec, .waitVsync, .failed] := by
  decide

theorem witness_GammaWindow :
    State.reset.lutValid = false ∧ presenting.buildLut.lutValid = true ∧ presenting.buildLut.Inv ∧ 0 < 64 ∧ 63 < 64 :=
  ⟨rfl, rfl, { presenting_inv with lutSize := by decide +kernel, lutTable := fun _ => rfl }, by decide, by decide⟩

/-- The first and the last register of the block. -/
theorem witness_RegisterReadsHaveNoSideEffect :
    (State.reset.hitsBlock 0xFFFFF000 .word = true ∧ State.reset.hitsBlock 0xFFFFFFFC .word = true) ∧
      (0xFFFFF000 : Word).toNat - State.reset.engineBase.toNat = 0 ∧
      (0xFFFFFFFC : Word).toNat - State.reset.engineBase.toNat = 0xFFC ∧
      State.reset.engineBase.toNat = (0xFFFFF000 : Word).toNat ∧
      (0xFFFFF000 : Word).toNat ≤ (0xFFFFFFFC : Word).toNat :=
  ⟨⟨by decide, by decide⟩, rfl, rfl, rfl, by decide⟩

theorem witness_NarrowRegisterAccessRefused :
    ∀ q ∈ [((0xFFFFF000 : Word), AccessSize.byte), (0xFFFFFFFE, .half), (0xFFFFEFFE, .word), (0xFFFFF002, .word)],
      State.reset.hitsBlock q.1 q.2 = true ∧
        (q.2 = .byte ∨ q.2 = .half ∨ q.1.toNat < State.reset.engineBase.toNat ∨
          (q.1.toNat - State.reset.engineBase.toNat) % 4 ≠ 0) := by decide

/-- The lowest accesses, those that end below the block, and, with the block at 0, the highest ones; and, while CONVERT.I420
of V53 runs, the accesses beside its planes, and a load from a source plane. -/
theorem witness_HostMemoryLittleEndian :
    (∀ q ∈ [((0 : Word), AccessSize.byte, State.reset), (1, .half, State.reset), (0xFFFFEFFC, .word, State.reset),
        (0xFFFFEFFF, .byte, State.reset), (0xFFFFFFFC, .word, { State.reset with engineBase := 0 }),
        (0xFFFFFFFE, .half, { State.reset with engineBase := 0 })],
      q.2.2.mem.wf = true ∧ q.2.2.runningPlan = none ∧ q.2.2.hitsBlock q.1 q.2.1 = false ∧
        q.1.toNat + q.2.1.bytes ≤ 4294967296) ∧
    (converting.mem.wf = true ∧
      ∀ q ∈ [((0xFC : Word), AccessSize.word), (0x108, .word), (0x1FF, .byte), (0x302, .half), (0x7FC, .word),
          (0x810, .byte)],
        converting.hitsBlock q.1 q.2 = false ∧ q.1.toNat + q.2.bytes ≤ 4294967296 ∧
          ∀ k ∈ (convertPlan .i420 converting).dest :: (convertPlan .i420 converting).sources,
            q.1.toNat + q.2.bytes ≤ k.base ∨ k.last < q.1.toNat) ∧
    (converting.hitsBlock 0x104 .word = false ∧ (convertPlan .i420 converting).dest.last = 0x80F ∧
      0x104 + 4 ≤ (convertPlan .i420 converting).dest.base) :=
  ⟨by decide +kernel, by decide +kernel, by decide +kernel⟩

theorem witness_GammaBuildAndPixGamma :
    (State.reset.lutValid = true → State.reset.lutRam = gammaTable) ∧ State.reset.buildLut.lutValid = true ∧
      (State.reset.buildLut.lutValid = true → State.reset.buildLut.lutRam = gammaTable) :=
  ⟨fun h => by simp [State.reset] at h, rfl, fun _ => rfl⟩

/-- The correction commands on a 1 × 1 image: disjoint, and exactly in place. -/
theorem correcting_ready (en : Bool) (d : Nat) (hd : d = 0x100 ∨ d = 0x200) (bpp : Nat) (hb : bpp ∈ [2, 3, 4]) :
    let s := machine { sized 1 1 0x100 4 d 4 with ccmEn := en } []
    let k := s.params.srcPlane0 s.params.srcH (bpp * s.params.srcW)
    s.params.ccmEn = en ∧ SameSizeReady k bpp s ∧ DisjointOrInPlace k bpp s := by
  refine ⟨rfl, sameSizeReady_of_fits rfl ?_, ?_⟩
  · simp only [List.mem_cons, List.not_mem_nil, or_false] at hb
    rcases hd with rfl | rfl <;> rcases hb with rfl | rfl | rfl <;> cases en <;> decide +kernel
  · rcases hd with rfl | rfl
    · exact .inr ⟨rfl, rfl⟩
    · left
      simp only [List.mem_cons, List.not_mem_nil, or_false] at hb
      rcases hb with rfl | rfl | rfl <;> cases en <;> decide +kernel

theorem witness_CcmApplyAbsentCopies :
    let s := machine { sized 1 1 0x100 4 0x200 4 with ccmEn := false } []
    let k := s.params.srcPlane0 s.params.srcH (4 * s.params.srcW)
    s.params.ccmEn = false ∧ SameSizeReady k 4 s ∧ DisjointOrInPlace k 4 s :=
  correcting_ready false 0x200 (.inr rfl) 4 (by decide)

theorem witness_CcmApplyCorrects :
    ∀ bpp ∈ [2, 3, 4],
      let s := machine { sized 1 1 0x100 4 0x100 4 with ccmEn := true } []
      let k := s.params.srcPlane0 s.params.srcH (bpp * s.params.srcW)
      s.params.ccmEn = true ∧ SameSizeReady k bpp s ∧ DisjointOrInPlace k bpp s :=
  fun bpp hb => correcting_ready true 0x100 (.inl rfl) bpp hb

theorem witness_GammaApplyLooksUp :
    ∀ bpp ∈ [2, 3, 4],
      let s := machine { sized 1 1 0x100 4 0x200 4 with ccmEn := false } []
      let k := s.params.srcPlane0 s.params.srcH (bpp * s.params.srcW)
      (s.lutValid = true → s.lutRam = gammaTable) ∧ SameSizeReady k bpp s ∧ DisjointOrInPlace k bpp s :=
  fun bpp hb => ⟨fun h => by simp [machine, State.reset] at h, (correcting_ready false 0x200 (.inr rfl) bpp hb).2⟩

/-- A 2 × 2 mosaic: every site is at two borders, and the four sites have all colours. -/
theorem witness_DemosaicSites :
    2 ≤ 2 ∧ 0 < 2 ∧ 1 < 2 ∧
      (∀ L ∈ [[CfaColor.red, .green, .green, .blue], [.green, .red, .blue, .green], [.green, .blue, .red, .green],
        [.blue, .green, .green, .red]], CfaColor.red ∈ L ∧ CfaColor.green ∈ L ∧ CfaColor.blue ∈ L) := by decide

theorem witness_DebayerWritesDemosaic :
    let s := machine (sized 4 4 0x1000 4 0x2000 12) imageQ
    let k := s.params.srcPlane0 s.params.srcH s.params.srcW
    s.params.srcW % 2 = 0 ∧ s.params.srcH % 2 = 0 ∧ SameSizeReady k 3 s ∧ SameSizeReady k 2 s ∧
      k.meets (s.params.dstSurface.plane 3) = false ∧ k.meets (s.params.dstSurface.plane 2) = false :=
  ⟨by decide, by decide, sameSizeReady_of_fits rfl (by decide +kernel), sameSizeReady_of_fits rfl (by decide +kernel),
    by decide, by decide⟩

/-- A source of each planar format. -/
theorem witness_ConvertPlanarWritesPixels :
    (∀ f ∈ [StreamFormat.i420, .yv12, .i422, .i444, .i400],
      let s := machine (stream 4 0x200 4 0x300 4) luma
      StreamReady f s s.params.dstSurface) := by
  intro f hf
  refine streamReady_of_fits rfl ?_
  revert f
  decide +kernel

/-- A source of each interleaved or packed format, and of BGR888. -/
theorem witness_ConvertInterleavedWritesPixels :
    (∀ f ∈ [StreamFormat.nv12, .nv21, .yuy2, .uyvy, .bgr888],
      let s := machine (stream 12 0x200 4 0 0) luma
      StreamReady f s s.params.dstSurface) := by
  intro f hf
  refine streamReady_of_fits rfl ?_
  revert f
  decide +kernel

/-- Inside a bracket, every source format is ready for DRAW. -/
theorem drawing_ready :
    ∀ f ∈ [StreamFormat.rgb565, .bgr888, .i420, .yv12, .i422, .i444, .i400, .nv12, .nv21, .yuy2, .uyvy],
      let s : State := { machine (stream 12 0x200 4 0x300 4) luma with inFrame := true }
      s.inFrame = true ∧ StreamReady f s s.inactiveSurface := by
  intro f hf
  refine ⟨rfl, streamReady_of_fits rfl ?_⟩
  revert f
  decide +kernel

theorem witness_DrawRgb565CopiesPixels :
    let s : State := { machine (stream 12 0x200 4 0x300 4) luma with inFrame := true }
    s.inFrame = true ∧ StreamReady .rgb565 s s.inactiveSurface := drawing_ready _ (by decide)

theorem witness_DrawConvertsPixels :
    ∀ f ∈ [StreamFormat.bgr888, .i420, .yv12, .i422, .i444, .i400, .nv12, .nv21, .yuy2, .uyvy],
      let s : State := { machine (stream 12 0x200 4 0x300 4) luma with inFrame := true }
      s.inFrame = true ∧ StreamReady f s s.inactiveSurface := fun f hf => drawing_ready f (List.mem_cons_of_mem _ hf)

/-- V53's source with DST_POS at `pos`, inside a bracket. -/
def placed (pos : Word) : State :=
  { machine { stream 4 0x200 2 0x300 2 with dstPos := pos } luma with inFrame := true }

/-- A 4 × 2 RGB565 source with DST_POS at `pos`, inside a bracket. -/
def placedWord (pos : Word) : State :=
  { machine { stream 8 0 0 0 0 with dstPos := pos } luma with inFrame := true }

/-- The first positions that clip everything: DST_X = 4 = DST_W, and DST_Y = 2 = DST_H. -/
theorem witness_FullyClippedWritesNothing :
    (StreamReady .rgb565 (placedWord 4) (placedWord 4).inactiveSurface ∧ (placedWord 4).inFrame = true ∧
      (placedWord 4).inactiveSurface.width ≤ (placedWord 4).params.dstX) ∧
    (StreamReady .i420 (placed 4) (placed 4).params.dstSurface ∧ StreamReady .i420 (placed 4) (placed 4).inactiveSurface ∧
      (placed 4).params.dstSurface.width ≤ (placed 4).params.dstX ∧
      (placed 4).inactiveSurface.width ≤ (placed 4).params.dstX ∧ (placed 4).inFrame = true) ∧
    (StreamReady .i420 (placed 0x20000) (placed 0x20000).params.dstSurface ∧
      StreamReady .i420 (placed 0x20000) (placed 0x20000).inactiveSurface ∧
      (placed 0x20000).params.dstSurface.height ≤ (placed 0x20000).params.dstY ∧
      (placed 0x20000).inactiveSurface.height ≤ (placed 0x20000).params.dstY) :=
  ⟨⟨streamReady_of_fits rfl (by decide +kernel), rfl, by decide +kernel⟩,
    ⟨streamReady_of_fits rfl (by decide +kernel), streamReady_of_fits rfl (by decide +kernel), by decide +kernel,
      by decide +kernel, rfl⟩,
    ⟨streamReady_of_fits rfl (by decide +kernel), streamReady_of_fits rfl (by decide +kernel), by decide +kernel,
      by decide +kernel⟩⟩

theorem witness_BracketCommands :
    ∀ b : Bool, { State.reset with phase := .exec, inFrame := b }.inFrame = b ∧
      { State.reset with phase := .exec, inFrame := b }.phase = .exec := by decide
theorem witness_PresentRequest :
    ∀ b : Bool, { State.reset with phase := .exec, inFrame := b }.inFrame = b ∧
      { State.reset with phase := .exec, inFrame := b }.phase = .exec := by decide
theorem witness_PresentSwapsSurfaces :
    presenting.Inv ∧ presenting.inFrame = false ∧ (presentingOf 2 1).Inv ∧ (presentingOf 2 1).inFrame = false ∧
      (presentingOf 2 1).params.fbN = 2 :=
  ⟨presenting_inv, rfl, presentingOf_inv (by decide) (by decide), rfl, rfl⟩

end Sys2Proof.Tests
end

section
/-! PROOFS. Joined words and short fields as numbers. -/

namespace Sys2Proof.Machine

/-- The number of two joined words. -/
theorem append_toNat {n m : Nat} (x : BitVec n) (y : BitVec m) : (x ++ y).toNat = x.toNat * 2 ^ m + y.toNat := by
  rw [BitVec.toNat_append, ← Nat.shiftLeft_add_eq_or_of_lt y.isLt, Nat.shiftLeft_eq]

/-- The low three bits of a word. -/
theorem lowThree_eq (v : Word) : v.extractLsb' 0 3 = BitVec.ofNat 3 v.toNat := by
  apply BitVec.eq_of_toNat_eq
  simp

theorem flagBit_toNat (b : Bool) : (flagBit b).toNat = if b then 1 else 0 := by cases b <;> rfl

end Sys2Proof.Machine
end

section
/-! PROOFS. What a step can do, said once for every event. -/

namespace Sys2Proof.Machine

/-- What an event can make of a state: one constructor for each way in which an obligation of 10_state.md tells steps
apart. `aside` collects what leaves only IRQ_STATUS, IRQ_EN, the host's data and SCAN_BASE other than before. -/
inductive Effect : Event → State → State → Prop where
  | reset {e : Event} {s t : State} (he : e.isReset s) (h : resetMachine s = .next t) : Effect e s t
  | command {s t : State} (h : runCommand s = .next t) : Effect .command s t
  | displayError {s t : State} (h : displayError s = .next t) : Effect .dispErr s t
  | acknowledge {s : State} (hx : s.phase = .waitVsync) : Effect .vsyncAck s s.finishPresent
  | accept {s : State} {addr w : Word} (hb : s.hitsBlock addr .word = true)
      (ht : s.storeTarget addr .word = some .cmd) (hx : s.phase = .idle) :
      Effect (.hostStore addr .word w) s (s.accept w)
  | surfaceCount {s : State} {addr v : Word} (ht : s.storeTarget addr .word = some .fbCfg) (hb : s.busy = false)
      (hn : legalSurfaceCount (v.extractLsb' 0 3) = true) :
      Effect (.hostStore addr .word v) s { s with params := { s.params with fbN := v.extractLsb' 0 3 }, activeIdx := 0 }
  | parameter {s : State} {addr v : Word} (r : Reg) (hb : s.busy = false) :
      Effect (.hostStore addr .word v) s { s with params := s.params.write r v }
  | memory {s : State} {addr v : Word} {size : AccessSize} (ha : addr.toNat + size.bytes ≤ Config.addressSpace) :
      Effect (.hostStore addr size v) s { s with mem := s.mem.writeLE addr.toNat size.bytes v.toNat }
  | aside {e : Event} {s : State} (irqStatus irqEn : BitVec 3) (hostData scanBase : Word) :
      Effect e s { s with irqStatus := irqStatus, irqEn := irqEn, hostData := hostData, scanBase := scanBase }

/-- An event that changes nothing. -/
theorem Effect.ignored (e : Event) (s : State) : Effect e s s :=
  .aside s.irqStatus s.irqEn s.hostData s.scanBase

/-- A host store to the register block has one of the effects. -/
theorem Effect.of_register {addr v : Word} {off : Nat} {s t : State} (hb : s.hitsBlock addr .word = true)
    (ht : s.storeTarget addr .word = regAt off) (h : writeOffset off v s = .next t) :
    Effect (.hostStore addr .word v) s t := by
  rcases writeOffset_next h with rfl | rfl | ⟨hr, hv, h⟩ | ⟨-, rfl⟩ | ⟨-, rfl⟩ | ⟨hr, hx, rfl⟩ | ⟨hr, hbusy, hn, rfl⟩ |
    ⟨r, -, -, -, hbusy, rfl⟩
  · exact .ignored _ _
  · exact .aside _ s.irqEn s.hostData s.scanBase
  · exact .reset (.inr ⟨addr, v, rfl, hb, ht.trans hr, hv⟩) h
  · exact .aside _ s.irqEn s.hostData s.scanBase
  · exact .aside s.irqStatus _ s.hostData s.scanBase
  · exact .accept hb (ht.trans hr) hx
  · exact .surfaceCount (ht.trans hr) hbusy hn
  · exact .parameter r hbusy

/-- Every event that answers a next state has one of the effects. -/
theorem Effect.of_perform {e : Event} {s t : State} (h : perform e s = .next t) : Effect e s t := by
  cases e with
  | command => exact .command h
  | hostStore addr size v =>
    rcases hostStore_next h with ⟨hb, rfl, off, hoff, hlt, hw⟩ | ⟨-, ha, -, rfl⟩
    · exact .of_register hb (storeTarget_eq hoff hlt) hw
    · exact .memory ha
  | hostLoad addr size =>
    rw [hostLoad_next h]
    exact .aside s.irqStatus s.irqEn _ s.scanBase
  | vsyncAck =>
    obtain rfl := Host.Outcome.next.inj h
    rcases vsyncAck_eq s with ⟨hx, heq⟩ | ⟨-, heq⟩ <;> rw [heq]
    · exact .acknowledge hx
    · exact .ignored _ _
  | dispErr => exact .displayError h
  | hardwareReset => exact .reset (.inl rfl) h
  | displayConfigure base =>
    obtain rfl := Host.Outcome.next.inj h
    exact .aside s.irqStatus s.irqEn s.hostData _

/-- A step takes an empty cycle from the inputs, or its next event has one of the effects. -/
theorem step_next {s t : State} (h : step s = .next t) :
    t = { s with inputs := s.inputsAfter } ∨
      ∃ e, s.nextEvent = some e ∧ Effect e { s with inputs := s.inputsAfter } t := by
  rw [step_eq] at h
  cases he : s.nextEvent with
  | none =>
    rw [he] at h
    exact .inl (Host.Outcome.next.inj h).symm
  | some e =>
    rw [he] at h
    exact .inr ⟨e, rfl, .of_perform h⟩

end Sys2Proof.Machine
end

section
/-! PROOFS. PRESENT's word: what CUR_CMD holds while a PRESENT waits (10_state.md R52). -/

namespace Sys2Proof.Machine

/-- The fields of a word are its bytes: joined they give it back (30_encoding.md R100). -/
theorem toWord_ofWord (w : Word) : (CmdFields.ofWord w).toWord = w := by
  have := w.isLt
  apply BitVec.eq_of_toNat_eq
  simp only [CmdFields.ofWord, CmdFields.toWord, append_toNat, BitVec.extractLsb'_toNat, Nat.shiftRight_eq_div_pow]
  omega

/-- No source format selects PRESENT (30_encoding.md R103). -/
theorem select_ne_present (x : PixelFormat) :
    selectCcm x ≠ some .present ∧ selectGamma x ≠ some .present ∧ selectConvert x ≠ some .present ∧
      selectDraw x ≠ some .present ∧ ∀ q, selectDebayer x = some q → q.1 ≠ .present ∧ q.2 ≠ .present := by
  cases x <;> simp [selectCcm, selectGamma, selectConvert, selectDraw, selectDebayer]

/-- So an OP that uses the formats is never PRESENT. -/
theorem selectImage_ne_present (op : Op) (x d : PixelFormat) : selectImage op x d ≠ .ok .present := by
  obtain ⟨hccm, hgamma, hconvert, hdraw, hdebayer⟩ := select_ne_present x
  have hstream : (if op = .convert then selectConvert x else selectDraw x) ≠ some .present := by
    split
    · exact hconvert
    · exact hdraw
  intro h
  unfold selectImage at h
  split at h <;> split at h
  any_goals cases h
  · rename_i q hq
    have := hdebayer _ hq
    split at h <;> simp_all
  all_goals
    rename_i i hi
    split at h
    on_goal 2 => cases h
    obtain rfl := Except.ok.inj h
  · exact hccm hi
  · exact hgamma hi
  · exact hstream hi

theorem decodeOp_eq_present {b : Byte} (h : decodeOp b = some .present) : b = 0x40 := by
  unfold decodeOp at h
  split at h <;> first | rfl | cases h

theorem selectPlain_eq_present {op : Op} (h : selectPlain op = some .present) : op = .present := by
  cases op <;> first | rfl | cases h

/-- PRESENT's word is the only one that decodes to PRESENT (30_encoding.md R103, R105). -/
theorem decode_eq_present {w : Word} (h : decode w = .ok .present) : w = encode .present := by
  suffices hf : CmdFields.ofWord w = Instr.present.fields by
    rw [← toWord_ofWord w, hf]
    rfl
  unfold decode decodeFields at h
  split at h
  · cases h
  rename_i hrsvd
  split at h
  · cases h
  rename_i op hop
  split at h
  · rename_i i hi
    split at h
    · cases h
    rename_i hsfmt
    split at h
    · cases h
    rename_i hdfmt
    obtain rfl := Except.ok.inj h
    obtain rfl := selectPlain_eq_present hi
    rw [Instr.fields, CmdFields.mk.injEq]
    exact ⟨not_not.1 hrsvd, not_not.1 hdfmt, not_not.1 hsfmt, decodeOp_eq_present hop⟩
  · split at h
    · cases h
    split at h
    · cases h
    exact absurd h (selectImage_ne_present _ _ _)

end Sys2Proof.Machine
end

section
/-! PROOFS. The invariant, update by update and then event by event. -/

namespace Sys2Proof.Machine

theorem ne_waitVsync_of_not_busy {s : State} (h : s.busy = false) : s.phase ≠ .waitVsync := by
  rcases (not_busy_iff s).1 h with hx | hx <;> simp [hx]

/-- The legal values of FB_CFG.N as numbers (10_state.md R44). -/
theorem legalSurfaceCount_iff (n : BitVec 3) : legalSurfaceCount n = true ↔ 2 ≤ n.toNat ∧ n.toNat ≤ 4 := by
  revert n
  decide

namespace State.Inv

variable {s : State}

/-- The inputs are no part of the invariant. -/
theorem withInputs (h : s.Inv) (inputs : List (List Event)) : { s with inputs := inputs }.Inv := { h with }

/-- Neither are the interrupt registers, the host's data and SCAN_BASE. -/
theorem withAside (h : s.Inv) (irqStatus irqEn : BitVec 3) (hostData scanBase : Word) :
    { s with irqStatus := irqStatus, irqEn := irqEn, hostData := hostData, scanBase := scanBase }.Inv := { h with }

theorem withMem (h : s.Inv) {m : Memory} (hm : m.wf = true) (n : Nat) :
    { s with mem := m, freeCount := n }.Inv := { h with memWf := hm }

theorem buildLut (h : s.Inv) : s.buildLut.Inv :=
  { h with lutSize := gammaTable_length, lutTable := fun _ => rfl }

theorem ensureLut (h : s.Inv) : (ensureLut s).Inv := by
  rw [ensureLut_eq h.lutTable]
  exact h.buildLut

/-- The guard of an image command's effects, for any command. -/
theorem ensureLutIf (h : s.Inv) (b : Bool) : (if b then Machine.ensureLut s else s).Inv := by
  cases b
  · exact h
  · exact h.ensureLut

theorem stopStores (h : s.Inv) {stores : List Store} (hin : storesInSpace stores) : (s.stopStores stores).Inv :=
  { h with memWf := stopStores_wf s h.memWf hin }

/-- Outside WAIT_VSYNC the request lines are down, so a step that leaves them alone may leave EXEC or IDLE. -/
theorem quietLines (h : s.Inv) (hx : s.phase ≠ .waitVsync) : s.dispReq = false ∧ s.dispAddr = 0 := by
  refine ⟨?_, by rw [h.requestAddress, if_neg hx]⟩
  rw [← Bool.not_eq_true, h.requestLine]
  exact hx

/-- Completion (R126) in EXEC; PIX_OUT and IN_FRAME may have changed with it. -/
theorem complete (h : s.Inv) (hx : s.phase = .exec) (pixOut : Word) (inFrame : Bool) :
    (complete { s with pixOut := pixOut, inFrame := inFrame }).Inv :=
  { h with
    noErrorHeld := fun _ => h.noErrorHeld (by simp [hx])
    errorHeld := by simp
    requestLine := by simp [(h.quietLines (by simp [hx])).1]
    requestAddress := by simp [(h.quietLines (by simp [hx])).2]
    waiting := by simp }

theorem accept (h : s.Inv) (hx : s.phase = .idle) (w : Word) : (s.accept w).Inv :=
  { h with
    noErrorHeld := fun _ => h.noErrorHeld (by simp [hx])
    errorHeld := by simp
    requestLine := by simp [(h.quietLines (by simp [hx])).1]
    requestAddress := by simp [(h.quietLines (by simp [hx])).2]
    waiting := by simp }

/-- Error entry (60_exceptions.md R274) with a code that is raised, and an address for check 16 only. -/
theorem raiseError (h : s.Inv) {code : ErrCode} (hc : code.raised = true) {check : Byte} (plane : BitVec 2)
    {addr : Word} (ha : addr ≠ 0 → check = 16) : (raiseError code check plane addr s).Inv := by
  by_cases hx : s.phase = .failed
  · rw [raiseError_of_failed hx]
    exact h
  · rw [raiseError_of_ne hx]
    exact
      { h with
        noErrorHeld := by simp
        errorHeld := fun _ => hc
        addressOfBusError := ha
        requestLine := by simp
        requestAddress := by simp
        waiting := by simp }

theorem raiseFailure (h : s.Inv) {f : Failure} (hf : f.code.raised = true) : (raiseFailure f s).Inv :=
  h.raiseError hf _ (absurd rfl)

theorem doneWith (h : s.Inv) (hx : s.phase = .exec) {m : Memory} (hm : m.wf = true) : (s.doneWith m).Inv :=
  (h.withMem hm (s.freeCount + 1)).complete hx s.pixOut s.inFrame

theorem executePlan (h : s.Inv) (hx : s.phase = .exec) {i : Instr} {p : Plan} (hp : commandPlan i s = some p)
    {t : State} (ht : executePlan p s = .next t) : t.Inv := by
  rcases executePlan_next ht with ⟨f, hf, rfl⟩ | ⟨hf, -, -, rfl⟩ | ⟨a, hf, -, -, rfl⟩
  · exact h.raiseFailure (commandPlan_failure hp hf).1
  all_goals
    obtain ⟨f, d, L, pos, bytes, hdraws⟩ := commandPlan_draws hp hf
    have hl := h.ensureLutIf p.usesLut
  · exact hl.doneWith (by cases p.usesLut <;> simp [hx]) (applyStores_wf _ h.memWf hdraws.inSpace)
  · exact (hl.stopStores hdraws.inSpace).raiseError rfl _ fun _ => rfl

theorem requestPresent (h : s.Inv) (hx : s.phase = .exec) (hf : s.inFrame = false) (hw : s.curCmd = encode .present) :
    s.requestPresent.Inv :=
  { h with
    noErrorHeld := fun _ => h.noErrorHeld (by simp [hx])
    errorHeld := by simp
    requestLine := by simp
    requestAddress := by simp
    waiting := fun _ => ⟨rfl, hf, hw⟩ }

theorem exec (h : s.Inv) (hx : s.phase = .exec) {i : Instr} (hi : decode s.curCmd = .ok i) {t : State}
    (ht : exec i s = .next t) : t.Inv := by
  rcases exec_next ht with ⟨p, hp, hpt⟩ | ⟨v, b, rfl⟩ | ⟨v, rfl⟩ | ⟨f, hf, rfl⟩ | ⟨rfl, hf, rfl⟩
  · exact h.executePlan hx hp hpt
  · exact h.complete hx v b
  · exact h.ensureLut.complete (by simp [hx]) v _
  · exact h.raiseFailure (by rcases hf with rfl | rfl <;> rfl)
  · exact h.requestPresent hx hf (decode_eq_present hi)

theorem runCommand (h : s.Inv) {t : State} (ht : runCommand s = .next t) : t.Inv := by
  rcases runCommand_next ht with ⟨-, rfl⟩ | ⟨i, hx, hi, he⟩ | ⟨e, -, -, rfl⟩
  · exact h
  · exact h.exec hx hi he
  · exact h.raiseFailure (illegalWord_raised e s).1

theorem stopCommand (h : s.Inv) {t : State} (ht : stopCommand s = .next t) : t.Inv := by
  rcases stopCommand_next ht with rfl | ⟨p, hp, -, rfl⟩
  · exact h
  · obtain ⟨i, -, -, hp, hf⟩ := runningPlan_some hp
    obtain ⟨f, d, L, pos, bytes, hdraws⟩ := commandPlan_draws hp hf
    rcases s.stopPlan_cases p with heq | heq <;> rw [heq]
    · exact h.withMem h.memWf _
    · exact (h.ensureLutIf p.usesLut).stopStores hdraws.inSpace

theorem displayError (h : s.Inv) {t : State} (ht : displayError s = .next t) : t.Inv := by
  obtain ⟨u, hu, rfl⟩ := displayError_next ht
  exact (h.stopCommand hu).raiseError rfl 0 (absurd rfl)

theorem reset : State.reset.Inv where
  memWf := rfl
  surfaceCount := rfl
  activeInRange := by decide
  lutSize := List.length_replicate
  lutTable := nofun
  noErrorHeld := fun _ => ⟨rfl, rfl, rfl, rfl, rfl⟩
  errorHeld := nofun
  addressOfBusError := absurd rfl
  requestLine := ⟨nofun, nofun⟩
  requestAddress := rfl
  waiting := nofun

theorem resetEngine (h : s.Inv) : s.resetEngine.Inv := { State.Inv.reset with memWf := h.memWf }

theorem resetMachine (h : s.Inv) {t : State} (ht : resetMachine s = .next t) : t.Inv := by
  rcases resetMachine_next ht with ⟨-, rfl⟩ | ⟨-, u, hu, rfl⟩
  · exact { h.resetEngine with }
  · exact (h.stopCommand hu).resetEngine

/-- FB_CFG.N as a number (10_state.md R44). -/
theorem surfaceCount_toNat (h : s.Inv) : 2 ≤ s.params.fbN.toNat ∧ s.params.fbN.toNat ≤ 4 :=
  (legalSurfaceCount_iff _).1 h.surfaceCount

/-- The next surface of a legal ring is one of its surfaces (R44, R46). -/
theorem inactiveIdx_toNat (h : s.Inv) : s.inactiveIdx.toNat = (s.activeIdx.toNat + 1) % s.params.fbN.toNat := by
  have hpos := Nat.zero_lt_of_lt h.activeInRange
  have hlt : (s.activeIdx.toNat + 1) % s.params.fbN.toNat < 4 :=
    lt_of_lt_of_le (Nat.mod_lt _ hpos) h.surfaceCount_toNat.2
  rw [State.inactiveIdx, BitVec.toNat_ofNat, Nat.mod_eq_of_lt hlt]

theorem finishPresent (h : s.Inv) (hx : s.phase = .waitVsync) : s.finishPresent.Inv :=
  { h with
    activeInRange := by
      rw [State.finishPresent_activeIdx, (h.waiting hx).1, h.inactiveIdx_toNat]
      exact Nat.mod_lt _ (Nat.zero_lt_of_lt h.activeInRange)
    noErrorHeld := fun _ => h.noErrorHeld (by simp [hx])
    errorHeld := by simp
    requestLine := by simp
    requestAddress := by simp
    waiting := by simp }

/-- A legal write to FB_CFG outside BUSY (R44). -/
theorem withSurfaceCount (h : s.Inv) (hb : s.busy = false) {n : BitVec 3} (hn : legalSurfaceCount n = true) :
    { s with params := { s.params with fbN := n }, activeIdx := 0 }.Inv := by
  have hx := ne_waitVsync_of_not_busy hb
  exact
    { h with
      surfaceCount := hn
      activeInRange := by
        show 0 < n.toNat
        have := (legalSurfaceCount_iff n).1 hn
        omega
      requestAddress := by simp only [if_neg hx, (h.quietLines hx).2]
      waiting := fun hw => absurd hw hx }

/-- A write to another parameter register outside BUSY (R22). -/
theorem withParameter (h : s.Inv) (hb : s.busy = false) (r : Reg) (v : Word) :
    { s with params := s.params.write r v }.Inv := by
  have hx := ne_waitVsync_of_not_busy hb
  exact
    { h with
      surfaceCount := by simpa using h.surfaceCount
      activeInRange := by simpa using h.activeInRange
      requestAddress := by simp only [if_neg hx, (h.quietLines hx).2]
      waiting := fun hw => absurd hw hx }

/-- Every effect of an event keeps the invariant. -/
theorem effect (h : s.Inv) {e : Event} {t : State} (ht : Effect e s t) : t.Inv := by
  cases ht with
  | reset _ hr => exact h.resetMachine hr
  | command hc => exact h.runCommand hc
  | displayError hd => exact h.displayError hd
  | acknowledge hx => exact h.finishPresent hx
  | accept _ _ hx => exact h.accept hx _
  | surfaceCount _ hb hn => exact h.withSurfaceCount hb hn
  | parameter r hb => exact h.withParameter hb r _
  | memory ha => exact h.withMem (Memory.wf_writeLE h.memWf _ ha) s.freeCount
  | aside => exact h.withAside _ _ _ _

end State.Inv

end Sys2Proof.Machine
end

section
/-! PROOFS. What a step leaves alone: the operands of the commands and a built gamma table; and the transitions of
the phase (10_state.md R24). -/

namespace Sys2Proof.Machine

/-- `t` has the parameters, the active surface and, once built, the gamma table of `s`. -/
structure KeepsOperands (s t : State) : Prop where
  params : t.params = s.params
  activeIdx : t.activeIdx = s.activeIdx
  table : s.lutValid = true → t.lutValid = true ∧ t.lutRam = s.lutRam

/-- A stop in EXEC keeps the phase. -/
theorem stopCommand_phase {s t : State} (h : stopCommand s = .next t) : t.phase = s.phase := by
  rcases stopCommand_next h with rfl | ⟨p, -, -, rfl⟩
  · rfl
  · rw [State.stopPlan_eq]

namespace KeepsOperands

variable {s t : State}

protected theorem rfl : KeepsOperands s s := ⟨rfl, rfl, fun h => ⟨h, rfl⟩⟩

/-- Building the table where it is not valid yet. -/
theorem ensureLutIf (b : Bool) : KeepsOperands s (if b then ensureLut s else s) where
  params := by cases b <;> simp
  activeIdx := by cases b <;> simp
  table := fun h => by cases b <;> simp [ensureLut, h]

theorem raiseError (h : KeepsOperands s t) (code : ErrCode) (check : Byte) (plane : BitVec 2) (addr : Word) :
    KeepsOperands s (raiseError code check plane addr t) := by
  by_cases hx : t.phase = .failed
  · rwa [raiseError_of_failed hx]
  · rw [raiseError_of_ne hx]
    exact { h with }

theorem executePlan {p : Plan} (h : executePlan p s = .next t) : KeepsOperands s t := by
  have hl : KeepsOperands s (if p.usesLut then ensureLut s else s) := ensureLutIf p.usesLut
  rcases executePlan_next h with ⟨f, -, rfl⟩ | ⟨-, -, -, rfl⟩ | ⟨a, -, -, -, rfl⟩
  · exact KeepsOperands.rfl.raiseError _ _ _ _
  · exact { hl with }
  · have hs : KeepsOperands s ((if p.usesLut then ensureLut s else s).stopStores p.stores) := { hl with }
    exact hs.raiseError _ _ _ _

theorem runCommand (h : runCommand s = .next t) : KeepsOperands s t := by
  rcases runCommand_next h with ⟨-, rfl⟩ | ⟨i, -, -, he⟩ | ⟨e, -, -, rfl⟩
  · exact .rfl
  · rcases exec_next he with ⟨p, -, hp⟩ | ⟨v, b, rfl⟩ | ⟨v, rfl⟩ | ⟨f, -, rfl⟩ | ⟨-, -, rfl⟩
    · exact .executePlan hp
    · exact ⟨rfl, rfl, fun h => ⟨h, rfl⟩⟩
    · exact { (ensureLutIf true : KeepsOperands s (ensureLut s)) with }
    · exact KeepsOperands.rfl.raiseError _ _ _ _
    · exact ⟨rfl, rfl, fun h => ⟨h, rfl⟩⟩
  · exact KeepsOperands.rfl.raiseError _ _ _ _

theorem stopCommand (h : stopCommand s = .next t) : KeepsOperands s t := by
  rcases stopCommand_next h with rfl | ⟨p, -, -, rfl⟩
  · exact .rfl
  · have hl : KeepsOperands s (if p.usesLut then ensureLut s else s) := ensureLutIf p.usesLut
    rcases s.stopPlan_cases p with heq | heq <;> rw [heq]
    · exact ⟨rfl, rfl, fun h => ⟨h, rfl⟩⟩
    · exact { hl with }

theorem displayError (h : displayError s = .next t) : KeepsOperands s t := by
  obtain ⟨u, hu, rfl⟩ := displayError_next h
  exact (stopCommand hu).raiseError _ _ _ _

end KeepsOperands

/-- What every reset leaves, whatever the phase it hits (70_reset_and_hazards.md R300). -/
theorem resetMachine_fields {s t : State} (h : resetMachine s = .next t) :
    t.phase = .idle ∧ t.errCode = .none ∧ t.activeIdx = 0 := by
  rcases resetMachine_next h with ⟨-, rfl⟩ | ⟨-, u, -, rfl⟩ <;> exact ⟨rfl, rfl, rfl⟩

/-- The bit of IRQ_STATUS that an event sets is set. -/
theorem or_irqDone (b : BitVec 3) : (b ||| irqDone).getLsbD 0 = true := by simp [irqDone]

theorem or_irqError (b : BitVec 3) : (b ||| irqError).getLsbD 1 = true := by simp [irqError]

/-- DISP_ERR leads to FAILED, with check 17 where it was not held already (60_exceptions.md R277, R278). -/
theorem displayError_phase {s t : State} (h : displayError s = .next t) (hne : t.phase ≠ s.phase) :
    t.phase = .failed ∧ t.errCheck = 17 ∧ t.errCode = .hardwareFault ∧ t.irqStatus.getLsbD 1 = true := by
  obtain ⟨u, hu, rfl⟩ := displayError_next h
  have hx : u.phase ≠ .failed := fun hx => hne (by rw [raiseError_of_failed hx, stopCommand_phase hu])
  rw [raiseError_of_ne hx]
  exact ⟨rfl, rfl, rfl, or_irqError _⟩

/-- The transitions of 10_state.md R24, each with its cause and with what it leaves. -/
inductive Transition (e : Event) (s t : State) : Prop where
  | accept (addr : Word) (hs : s.phase = .idle) (ht : t.phase = .exec) (he : e = .hostStore addr .word t.curCmd)
      (hb : s.hitsBlock addr .word = true) (hr : s.storeTarget addr .word = some .cmd)
  | complete (hs : s.phase = .exec) (ht : t.phase = .idle) (he : e = .command) (hirq : t.irqStatus.getLsbD 0 = true)
  | request (hs : s.phase = .exec) (ht : t.phase = .waitVsync) (he : e = .command)
      (hd : decode s.curCmd = .ok .present) (hr : t.dispReq = true)
  | acknowledge (hs : s.phase = .waitVsync) (ht : t.phase = .idle) (he : e = .vsyncAck)
      (hirq : t.irqStatus.getLsbD 0 = true)
  | fail (ht : t.phase = .failed) (he : s.phase = .exec ∧ e = .command ∨ e = .dispErr ∧ t.errCheck = 17)
      (hcode : t.errCode ≠ .none) (hirq : t.irqStatus.getLsbD 1 = true)
  | reset (ht : t.phase = .idle) (he : e.isReset s) (hcode : t.errCode = .none)

/-- Every transition is one of the table's. -/
theorem Transition.mayBecome {e : Event} {s t : State} (h : Transition e s t) : s.phase.mayBecome t.phase = true := by
  cases h with
  | accept _ hs ht => rw [hs, ht]; rfl
  | complete hs ht => rw [hs, ht]; rfl
  | request hs ht => rw [hs, ht]; rfl
  | acknowledge hs ht => rw [hs, ht]; rfl
  | fail ht => rw [ht]; cases s.phase <;> rfl
  | reset ht => rw [ht]; cases s.phase <;> rfl

/-- An effect that changes the phase makes one of the transitions. -/
theorem Effect.transition {e : Event} {s t : State} (h : Effect e s t) (hne : t.phase ≠ s.phase) :
    Transition e s t := by
  cases h with
  | reset he hr =>
    obtain ⟨hphase, hcode, -⟩ := resetMachine_fields hr
    exact .reset hphase he hcode
  | command hc =>
    have hx : s.phase = .exec := by
      rcases runCommand_next hc with ⟨-, rfl⟩ | ⟨_, hx, -⟩ | ⟨_, hx, -⟩
      · exact absurd rfl hne
      · exact hx
      · exact hx
    rcases runCommand_phase hx hc with ⟨hp, hirq⟩ | ⟨hp, hd, hreq⟩ | ⟨hp, hcode, hirq⟩
    · exact .complete hx hp rfl hirq
    · exact .request hx hp rfl hd hreq
    · exact .fail hp (.inl ⟨hx, rfl⟩) hcode hirq
  | displayError hd =>
    obtain ⟨hp, hcheck, hcode, hirq⟩ := displayError_phase hd hne
    exact .fail hp (.inr ⟨rfl, hcheck⟩) (by simp [hcode]) hirq
  | acknowledge hx => exact .acknowledge hx rfl rfl (or_irqDone _)
  | accept hb ht hx => exact .accept _ hx rfl rfl hb ht
  | surfaceCount | parameter | memory | aside => exact absurd rfl hne

/-- What may change ACTIVE_IDX (10_state.md R46). -/
theorem Effect.activeIdx_changed {e : Event} {s t : State} (h : Effect e s t) (hne : t.activeIdx ≠ s.activeIdx) :
    e = .vsyncAck ∧ s.phase = .waitVsync ∧ t.activeIdx = s.presentTarget ∨
      (∃ addr v, e = .hostStore addr .word v ∧ s.storeTarget addr .word = some .fbCfg ∧
        v.toNat % 8 ∈ [2, 3, 4] ∧ s.busy = false ∧ t.activeIdx = 0) ∨
      e.isReset s ∧ t.activeIdx = 0 := by
  cases h with
  | reset he hr => exact .inr (.inr ⟨he, (resetMachine_fields hr).2.2⟩)
  | command hc => exact absurd (KeepsOperands.runCommand hc).activeIdx hne
  | displayError hd => exact absurd (KeepsOperands.displayError hd).activeIdx hne
  | acknowledge hx => exact .inl ⟨rfl, hx, rfl⟩
  | @surfaceCount _ addr v ht hb hn =>
    have := (legalSurfaceCount_iff _).1 hn
    refine .inr (.inl ⟨addr, v, rfl, ht, ?_, hb, rfl⟩)
    simp at this ⊢
    omega
  | accept | parameter | memory | aside => exact absurd rfl hne

/-- What may change a parameter register while BUSY (R22, R54). -/
theorem Effect.params_changed {e : Event} {s t : State} (h : Effect e s t) (hb : s.busy = true)
    (hne : t.params ≠ s.params) : e.isReset s := by
  cases h with
  | reset he => exact he
  | command hc => exact absurd (KeepsOperands.runCommand hc).params hne
  | displayError hd => exact absurd (KeepsOperands.displayError hd).params hne
  | surfaceCount _ hb' => exact absurd hb' (by simp [hb])
  | parameter _ hb' => exact absurd hb' (by simp [hb])
  | acknowledge | accept | memory | aside => exact absurd rfl hne

/-- What may happen to a built table (R29). -/
theorem Effect.table_kept {e : Event} {s t : State} (h : Effect e s t) (hl : s.lutValid = true) :
    t.lutValid = true ∧ t.lutRam = s.lutRam ∨ e.isReset s := by
  cases h with
  | reset he => exact .inr he
  | command hc => exact .inl ((KeepsOperands.runCommand hc).table hl)
  | displayError hd => exact .inl ((KeepsOperands.displayError hd).table hl)
  | acknowledge | accept | surfaceCount | parameter | memory | aside => exact .inl ⟨hl, rfl⟩

/-- A step that changes the phase makes one of the transitions, by its next event. -/
theorem step_transition {s t : State} (h : step s = .next t) (hne : t.phase ≠ s.phase) :
    ∃ e, s.nextEvent = some e ∧ Transition e { s with inputs := s.inputsAfter } t := by
  rcases step_next h with rfl | ⟨e, he, heff⟩
  · exact absurd rfl hne
  · exact ⟨e, he, heff.transition hne⟩

end Sys2Proof.Machine
end

section
/-! PROOFS. The register block: which registers a write leaves as they were (10_state.md R21, R22). -/

namespace Sys2Proof.Machine

/-- Every register that can be written stands at an offset that 10_state.md R21 marks RW, WO or W1C. -/
theorem writable_offset {r : Reg} (h : r.access ≠ .ro) :
    r.offset ∈ [0x000, 0x008, 0x00C, 0x010, 0x020, 0x040, 0x044, 0x048, 0x04C, 0x050, 0x054, 0x058, 0x060, 0x064,
      0x068, 0x06C, 0x080, 0x084, 0x088, 0x08C, 0x090, 0x094, 0x098, 0x09C, 0x0A0, 0x0A4, 0x0C0, 0x0C4, 0x0C8, 0x0D0,
      0x0D4, 0x0D8, 0x0DC] := by
  cases r <;> first | exact absurd rfl h | decide

/-- Every read-only register stands at one of R21's read-only offsets or in the GAMMA_LUT window. -/
theorem readOnly_offset {r : Reg} (h : r.access = .ro) :
    r.offset ∈ [0x004, 0x014, 0x018, 0x024, 0x0CC, 0x0E0, 0x0E4] ∨ ∃ k, r = .gammaLut k := by
  cases r with
  | gammaLut k => exact .inr ⟨k, rfl⟩
  | _ => first | cases h; done | exact .inl (by decide)

/-- A write to a parameter register other than FB_CFG outside BUSY (10_state.md R22). -/
theorem writeOffset_parameter {off : Nat} {r : Reg} (hr : regAt off = some r) (hp : r.isParameter = true)
    (hn : r ≠ .fbCfg) {s : State} (hb : s.busy = false) (v : Word) :
    writeOffset off v s = .next { s with params := s.params.write r v } := by
  rw [writeOffset, hr]
  cases r <;> first | cases hp; done | exact absurd rfl hn | simp [regWrite, Reg.access, hb]

/-- The registers that hold all 32 bits of what is written. -/
def Reg.isFullWidth : Reg → Bool
  | .pixIn | .srcSize | .srcBase0 | .srcPitch0 | .srcBase1 | .srcPitch1 | .srcBase2 | .srcPitch2 | .dstSize
  | .dstBase | .dstPitch | .dstPos | .fbSize | .fbPitch | .fbBase0 | .fbBase1 | .fbBase2 | .fbBase3 => true
  | _ => false

theorem regRead_write_same {r : Reg} (hr : r.isFullWidth = true) (s : State) (v : Word) :
    regRead r { s with params := s.params.write r v } = v := by
  cases r <;> first | rfl | cases hr

/-- The registers that hold bits 15 to 0 of what is written (10_state.md R43). -/
def Reg.isCoefficient : Reg → Bool
  | .ccmC00 | .ccmC01 | .ccmC02 | .ccmC10 | .ccmC11 | .ccmC12 | .ccmC20 | .ccmC21 | .ccmC22 => true
  | _ => false

theorem regRead_write_coefficient {r : Reg} (hr : r.isCoefficient = true) (s : State) (v : Word) :
    (regRead r { s with params := s.params.write r v }).toNat = v.toNat % 65536 := by
  have hhalf : ((v.extractLsb' 0 16).setWidth 32).toNat = v.toNat % 65536 := by
    have := (halves_toNat v).1
    rw [BitVec.toNat_setWidth]
    omega
  cases r <;> first | exact hhalf | cases hr

theorem fbBase_write_coefficient {r : Reg} (hr : r.isCoefficient = true) (p : Params) (v : Word) (k : BitVec 2) :
    (p.write r v).fbBase k = p.fbBase k := by
  cases r <;> first | rfl | cases hr

theorem Reg.parameter_of_coefficient {r : Reg} (hr : r.isCoefficient = true) : r.isParameter = true ∧ r ≠ .fbCfg := by
  cases r <;> first | exact ⟨rfl, by decide⟩ | cases hr

theorem Reg.parameter_of_fullWidth {r : Reg} (hr : r.isFullWidth = true) : r.isParameter = true ∧ r ≠ .fbCfg := by
  cases r <;> first | exact ⟨rfl, by decide⟩ | cases hr

/-- A write to one parameter register leaves what the others read, but for the two views of FB_BASE. -/
theorem regRead_write_other {r r' : Reg} (hne : r' ≠ r) (hv : r' ≠ .fbActiveBase ∧ r' ≠ .fbInactiveBase) (s : State)
    (v : Word) : regRead r' { s with params := s.params.write r v } = regRead r' s := by
  obtain ⟨hactive, hinactive⟩ := hv
  cases r <;> cases r' <;> first | exact rfl | contradiction

/-- INACTIVE_IDX depends on no parameter but FB_CFG. -/
theorem inactiveIdx_write (s : State) (r : Reg) (v : Word) :
    { s with params := s.params.write r v }.inactiveIdx = s.inactiveIdx := by
  simp [State.inactiveIdx]

/-- What a write leaves, at the offsets: the two views read as before where the write leaves every FB_BASE. -/
theorem readOffset_write_other {off other : Nat} {r : Reg} (hr : regAt off = some r) (hne : other ≠ off) (s : State)
    (v : Word) (hv : other ∉ [0x0E0, 0x0E4] ∨ ∀ k, (s.params.write r v).fbBase k = s.params.fbBase k) :
    readOffset other { s with params := s.params.write r v } = readOffset other s := by
  unfold readOffset
  split
  · rename_i r' hr'
    obtain ⟨rfl, -⟩ := regAt_eq_some hr'
    have hrr : r' ≠ r := by
      rintro rfl
      exact hne (regAt_eq_some hr).1.symm
    by_cases hview : r' = .fbActiveBase ∨ r' = .fbInactiveBase
    · have hbase := hv.resolve_left (by rcases hview with rfl | rfl <;> decide)
      rcases hview with rfl | rfl
      · exact hbase _
      · simp only [regRead, hbase, inactiveIdx_write]
    · exact regRead_write_other hrr (not_or.1 hview) s v
  · rfl

/-- A read at the offset of a register reads the register. -/
theorem readOffset_of_regAt {off : Nat} {r : Reg} (hr : regAt off = some r) (s : State) :
    readOffset off s = regRead r s := by
  rw [readOffset, hr]

end Sys2Proof.Machine
end

section
/-! PROOFS. What the status and surface registers read, as numbers (10_state.md R26–R49). -/

namespace Sys2Proof.Machine

/-- IRQ as the two registers read (60_exceptions.md R285). -/
theorem irq_iff (s : State) :
    s.irq = true ↔ ((readOffset 0x008 s).toNat &&& (readOffset 0x00C s).toNat &&& 0x7) ≠ 0 := by
  have bits : ∀ a b : BitVec 3, (a &&& b != 0) = true ↔
      ((a.setWidth 32).toNat &&& (b.setWidth 32).toNat &&& 0x7) ≠ 0 := by decide
  exact bits _ _

/-- The STATUS word as a number (10_state.md R26). -/
theorem statusWord_toNat (s : State) :
    (statusWord s).toNat = (flagBit s.busy).toNat + 2 * (flagBit s.isFailed).toNat + 4 * (flagBit s.lutValid).toNat
      + 8 * (flagBit s.inFrame).toNat + 16 * (flagBit s.presentPending).toNat + 256 * s.errCode.number.toNat := by
  simp only [statusWord, append_toNat, BitVec.toNat_ofNat]
  omega

theorem errInfoWord_toNat (s : State) :
    (errInfoWord s).toNat = s.errOp.toNat + 256 * s.errCheck.toNat + 65536 * s.errPlane.toNat := by
  simp only [errInfoWord, append_toNat, BitVec.toNat_ofNat]
  omega

theorem busy_eq (s : State) : s.busy = decide (s.phase = .exec ∨ s.phase = .waitVsync) := by
  unfold State.busy
  cases s.phase <;> rfl

theorem isFailed_eq (s : State) : s.isFailed = decide (s.phase = .failed) := by
  unfold State.isFailed
  cases s.phase <;> rfl

theorem presentPending_eq (s : State) : s.presentPending = decide (s.phase = .waitVsync) := by
  unfold State.presentPending
  cases s.phase <;> rfl

/-- FB_BASE[k] from the list of the four registers (10_state.md R47). -/
theorem fbBase_eq_getD (p : Params) (k : BitVec 2) :
    p.fbBase k = [p.fbBase0, p.fbBase1, p.fbBase2, p.fbBase3].getD k.toNat 0 := by
  have cases4 : k = 0 ∨ k = 1 ∨ k = 2 ∨ k = 3 := by
    revert k
    decide
  rcases cases4 with rfl | rfl | rfl | rfl <;> rfl

theorem fbActiveWord_toNat (s : State) : (fbActiveWord s).toNat = s.activeIdx.toNat + 256 * s.inactiveIdx.toNat := by
  simp only [fbActiveWord, append_toNat, BitVec.toNat_ofNat]
  omega

/-- A word of the GAMMA_LUT window as a number (R49). -/
theorem gammaWindow_toNat {s : State} (h : s.lutValid = true) (k : Nat) :
    (gammaWindow s k).toNat = (s.lutRam.getD (4 * k) 0).toNat + 256 * (s.lutRam.getD (4 * k + 1) 0).toNat
      + 65536 * (s.lutRam.getD (4 * k + 2) 0).toNat + 16777216 * (s.lutRam.getD (4 * k + 3) 0).toNat := by
  simp only [gammaWindow, h, if_true, append_toNat]
  omega

end Sys2Proof.Machine
end

section
/-! PROOFS. Two events of one cycle, the first of them a store that clears IRQ_STATUS (60_exceptions.md R286). -/

namespace Sys2Proof.Machine

/-- VSYNC_ACK completes the PRESENT that waits (44_framebuffer.md R237). -/
theorem perform_vsyncAck {s : State} (hx : s.phase = .waitVsync) : perform .vsyncAck s = .next s.finishPresent := by
  simp [perform, vsyncAck, hx]

/-- DISP_ERR while no command executes enters FAILED with check 17 (60_exceptions.md R277). -/
theorem displayError_of_waiting {s : State} (hx : s.phase = .idle ∨ s.phase = .waitVsync) :
    displayError s = .next (s.enterFailed .hardwareFault 17 0 0) := by
  have hexec : s.phase ≠ .exec := by rcases hx with hx | hx <;> simp [hx]
  have hfailed : s.phase ≠ .failed := by rcases hx with hx | hx <;> simp [hx]
  rw [displayError, stopCommand_of_ne hexec, afterStop, raiseError_of_ne hfailed]

/-- NOP's word completes (40_command_cycle.md R127). -/
theorem runCommand_nop {s : State} (hx : s.phase = .exec) (hw : s.curCmd = encode .nop) :
    runCommand s = .next (complete s) := by
  have hd : decode (encode .nop) = .ok .nop := by decide
  simp [runCommand, hx, hw, hd, exec, execNop]

/-- A cycle of one event. -/
theorem step_single {s : State} {e : Event} {rest : List (List Event)} (h : s.inputs = [e] :: rest) :
    step s = perform e { s with inputs := rest } := by
  simp [step, h, firstEvent, laterInputs]

/-- The inputs that remain after the first of two events of a cycle, where `clear` goes before `e`. -/
theorem step_lower_first {s : State} {clear e : Event} {rest : List (List Event)} (hc : 0 < clear.rank s)
    (he : clear.rank s < e.rank s) (h : s.inputs = [e, clear] :: rest ∨ s.inputs = [clear, e] :: rest) :
    step s = perform clear { s with inputs := [e] :: rest } := by
  rcases h with h | h
  · simp [step, h, firstEvent, laterInputs, hc.ne', not_le.2 he]
  · simp [step, h, firstEvent, laterInputs, hc.ne', he.le]

/-- A 32-bit host store to the register block is a write of the register it names. -/
theorem hostStore_of_target {s : State} {addr v : Word} {r : Reg} (hb : s.hitsBlock addr .word = true)
    (ht : s.storeTarget addr .word = some r) : hostStore addr .word v s = regWrite r v s := by
  unfold State.storeTarget at ht
  split at ht
  · rename_i off hoff
    split at ht
    · simp [hostStore, hb, hoff, writeOffset, ht]
    · cases ht
  · cases ht

/-- A store to IRQ_STATUS changes IRQ_STATUS alone (10_state.md R33). -/
theorem hostStore_irqStatus {s : State} {addr : Word} (hb : s.hitsBlock addr .word = true)
    (ht : s.storeTarget addr .word = some .irqStatus) (v : Word) :
    ∃ b, hostStore addr .word v s = .next { s with irqStatus := b } :=
  ⟨_, hostStore_of_target hb ht⟩

/-- A clearing store to IRQ_STATUS goes before an event of a higher rank, whichever stands first in the cycle, and the
event follows it. -/
theorem step_clear_then {s : State} {addr v : Word} {e : Event} {rest : List (List Event)}
    (hb : s.hitsBlock addr .word = true) (ht : s.storeTarget addr .word = some .irqStatus) (he : 1 < e.rank s)
    (h : s.inputs = [e, .hostStore addr .word v] :: rest ∨ s.inputs = [.hostStore addr .word v, e] :: rest) :
    ∃ t b, step s = .next t ∧ t.inputs = [e] :: rest ∧
      step t = perform e { s with inputs := rest, irqStatus := b } := by
  have hrank : (Event.hostStore addr .word v).rank s = 1 := by simp [Event.rank, ht]
  obtain ⟨b, hstore⟩ := hostStore_irqStatus (s := { s with inputs := [e] :: rest }) hb ht v
  refine ⟨{ s with inputs := [e] :: rest, irqStatus := b }, b, ?_, rfl, step_single rfl⟩
  rw [step_lower_first (by omega) (by omega) h]
  exact hstore

end Sys2Proof.Machine
end

section
/-! PROOFS. The checks 9–15 of the image commands in their order (60_exceptions.md R272, R273). -/

namespace Sys2Proof.Machine

/-! The commands of a source format, and its rows of the spec's tables. -/

/-- The source formats in the order of 30_encoding.md R102, RGB565 last. -/
def streamFormats : List StreamFormat :=
  [.bgr888, .i420, .yv12, .i422, .i444, .i400, .nv12, .nv21, .yuy2, .uyvy, .rgb565]

/-- DRAW of a source format (45_compositor.md R254–R264). -/
def StreamFormat.drawCommand : StreamFormat → Instr
  | .rgb565 => .drawRgb565
  | .bgr888 => .drawBgr888
  | .i420 => .drawI420
  | .yv12 => .drawYv12
  | .i422 => .drawI422
  | .i444 => .drawI444
  | .i400 => .drawI400
  | .nv12 => .drawNv12
  | .nv21 => .drawNv21
  | .yuy2 => .drawYuy2
  | .uyvy => .drawUyvy

/-- CONVERT of a source format (43_format_converter.md R204–R213). RGB565 has none, and its DRAW stands in the place. -/
def StreamFormat.convertCommand : StreamFormat → Instr
  | .rgb565 => .drawRgb565
  | .bgr888 => .convertBgr888
  | .i420 => .convertI420
  | .yv12 => .convertYv12
  | .i422 => .convertI422
  | .i444 => .convertI444
  | .i400 => .convertI400
  | .nv12 => .convertNv12
  | .nv21 => .convertNv21
  | .yuy2 => .convertYuy2
  | .uyvy => .convertUyvy

/-- Whether the format needs an even width and an even height (R217). -/
def StreamFormat.evenSides : StreamFormat → Bool × Bool
  | .i420 | .yv12 | .nv12 | .nv21 => (true, true)
  | .i422 | .yuy2 | .uyvy => (true, false)
  | .rgb565 | .bgr888 | .i444 | .i400 => (false, false)

/-- The planes of the format (20_memory.md R82): number, divisor of the height, row bytes as multiple and divisor of the
width. -/
def StreamFormat.planeRows : StreamFormat → List (Nat × Nat × Nat × Nat)
  | .rgb565 | .yuy2 | .uyvy => [(0, 1, 2, 1)]
  | .bgr888 => [(0, 1, 3, 1)]
  | .i420 | .yv12 => [(0, 1, 1, 1), (1, 2, 1, 2), (2, 2, 1, 2)]
  | .i422 => [(0, 1, 1, 1), (1, 1, 1, 2), (2, 1, 1, 2)]
  | .i444 => [(0, 1, 1, 1), (1, 1, 1, 1), (2, 1, 1, 1)]
  | .i400 => [(0, 1, 1, 1)]
  | .nv12 | .nv21 => [(0, 1, 1, 1), (1, 2, 1, 1)]

/-- The plane that a row of the table stands for. -/
def Params.tablePlane (p : Params) (r : Nat × Nat × Nat × Nat) : Plane where
  number := BitVec.ofNat 2 r.1
  base := ([p.srcBase0, p.srcBase1, p.srcBase2].getD r.1 0).toNat
  pitch := ([p.srcPitch0, p.srcPitch1, p.srcPitch2].getD r.1 0).toNat
  rows := p.srcH / r.2.1
  rowBytes := r.2.2.1 * p.srcW / r.2.2.2

theorem exec_drawCommand (f : StreamFormat) (s : State) : exec f.drawCommand s = executePlan (drawPlan f s) s := by
  cases f <;> rfl

theorem exec_convertCommand {f : StreamFormat} (h : f.convertCommand ≠ f.drawCommand) (s : State) :
    exec f.convertCommand s = executePlan (convertPlan f s) s := by
  cases f <;> first | rfl | exact absurd rfl h

theorem planes_eq_rows (f : StreamFormat) (p : Params) : f.planes p = f.planeRows.map p.tablePlane := by
  cases f <;> simp [StreamFormat.planes, StreamFormat.planeRows, Params.tablePlane, Params.srcPlane0, Params.srcPlane1,
    Params.srcPlane2]

theorem oddSize_iff (f : StreamFormat) (w h : Nat) :
    f.oddSize w h = true ↔ f.evenSides.1 = true ∧ w % 2 = 1 ∨ f.evenSides.2 = true ∧ h % 2 = 1 := by
  cases f <;> simp [StreamFormat.oddSize, StreamFormat.evenSides]

/-! The first failing check. -/

theorem firstFailure_cons (b : Bool) (f : Failure) (rest : List (Bool × Failure)) :
    firstFailure ((b, f) :: rest) = if b then some f else firstFailure rest := rfl

/-- A check of every source plane reports the first plane that fails it. -/
theorem firstFailure_planes (P : Plane → Bool) (check : Byte) (planes : List Plane) (rest : List (Bool × Failure)) :
    firstFailure (planes.map (fun k => (P k, conversionFailed check k.number)) ++ rest) =
      ((planes.find? P).map fun k => conversionFailed check k.number).or (firstFailure rest) := by
  induction planes with
  | nil => simp
  | cons k planes ih =>
    rw [List.map_cons, List.cons_append, firstFailure_cons, ih]
    cases hP : P k <;> simp [hP]

/-- Checks 9–15 in their order. -/
theorem geometryChecks_first (p : Params) (planes : List Plane) (dst : Surface) (bpp : Nat) (odd same : Bool) :
    firstFailure (geometryChecks p planes dst bpp odd same) =
      if p.srcW = 0 ∨ p.srcH = 0 then some (conversionFailed 9 0)
      else if dst.width = 0 ∨ dst.height = 0 then some (conversionFailed 10 3)
      else if odd = true then some (conversionFailed 11 0)
      else if same = true ∧ (dst.width ≠ p.srcW ∨ dst.height ≠ p.srcH) then some (conversionFailed 12 3)
      else
        ((planes.find? fun k => decide (k.pitch < k.rowBytes)).map fun k => conversionFailed 13 k.number).or
          (if dst.pitch < dst.width * bpp then some (conversionFailed 14 3)
          else
            ((planes.find? fun k => decide (Config.addressSpace ≤ k.last)).map fun k => conversionFailed 15 k.number).or
              (if Config.addressSpace ≤ (dst.plane bpp).last then some (conversionFailed 15 3) else none)) := by
  simp only [geometryChecks, List.append_assoc, List.cons_append, List.nil_append, firstFailure_cons,
    firstFailure_planes, Bool.or_eq_true, Bool.and_eq_true, beq_iff_eq, bne_iff_ne, decide_eq_true_eq]
  rfl

/-- A failed check of a command in EXEC enters FAILED (R274). -/
theorem executePlan_fails {p : Plan} {s : State} (hx : s.phase = .exec) {f : Failure} (h : p.failure = some f) :
    executePlan p s = .next (s.enterFailed f.code f.check f.plane 0) := by
  rw [executePlan_of_failure h]
  exact congrArg _ (raiseError_of_ne (by simp [hx]) _ _ _ _)

/-- The first plane of a list of one. -/
theorem find_singleton_or (k : Plane) (P : Plane → Bool) (g : Plane → Failure) (o : Option Failure) :
    (([k].find? P).map g).or o = if P k = true then some (g k) else o := by
  cases h : P k <;> simp [h]

/-- Of a list of checks that are reported in order, the first reports itself where it fails, and else the rest count. -/
theorem report_first {c : Prop} [Decidable c] {f : Failure} {rest : Option Failure}
    {Reported : Failure → Prop} {Q : Prop}
    (h : ∀ g, (if c then some f else rest) = some g → Reported g)
    (hrest : (∀ g, rest = some g → Reported g) → Q) : if c then Reported f else Q := by
  split
  · rename_i hc
    exact h f (if_pos hc)
  · rename_i hc
    exact hrest fun g hg => h g ((if_neg hc).trans hg)

/-- An address beyond the memory space (20_memory.md R70). -/
theorem addressSpace_le_iff (a : Nat) : Config.addressSpace ≤ a ↔ 0xFFFFFFFF < a := Iff.rfl

/-- The checks of CCM_APPLY and GAMMA_APPLY (41_color_model.md R166, R171); check 11 never fails. -/
theorem correctionPlan_failure {f : RgbFormat} (hf : f.bpp ≠ 1) (usesLut : Bool) (bytesAt : Nat → List Byte)
    (s : State) :
    (correctionPlan f usesLut bytesAt s).failure = firstFailure (geometryChecks s.params
      [s.params.srcPlane0 s.params.srcH (f.bpp * s.params.srcW)] s.params.dstSurface f.bpp
      (decide (f.bpp = 1 ∧ (s.params.srcW % 2 = 1 ∨ s.params.srcH % 2 = 1))) true) := by
  simp [correctionPlan, hf]

/-- The checks of DEBAYER (42_demosaic.md R186). -/
theorem debayerPlan_failure (pattern : BayerPattern) (f : RgbFormat) (s : State) :
    (debayerPlan pattern f s).failure = firstFailure (geometryChecks s.params
      [s.params.srcPlane0 s.params.srcH (1 * s.params.srcW)] s.params.dstSurface f.bpp
      (decide (1 = 1 ∧ (s.params.srcW % 2 = 1 ∨ s.params.srcH % 2 = 1))) true) := by
  have hodd : (s.params.srcW % 2 == 1 || s.params.srcH % 2 == 1) =
      decide (s.params.srcW % 2 = 1 ∨ s.params.srcH % 2 = 1) := (Bool.decide_or _ _).symm
  simp only [debayerPlan, hodd, one_mul, true_and]

/-- Outside a bracket DRAW's first check fails (45_compositor.md R253). -/
theorem drawPlan_bracketMissing (f : StreamFormat) {s : State} (h : s.inFrame = false) :
    (drawPlan f s).failure = some ⟨.sequenceError, 5, 0⟩ := by
  simp [drawPlan, streamPlan, firstFailure_cons, h]

/-- Inside a bracket DRAW makes CONVERT's checks on the inactive surface (R253). -/
theorem drawPlan_failure (f : StreamFormat) {s : State} (h : s.inFrame = true) :
    (drawPlan f s).failure = firstFailure (geometryChecks s.params (f.planes s.params) s.inactiveSurface 2
      (f.oddSize s.params.srcW s.params.srcH) false) := by
  simp [drawPlan, streamPlan, firstFailure_cons, h]

end Sys2Proof.Machine
end

section
/-! PROOFS. A fully clipped CONVERT or DRAW (43_format_converter.md R203). -/

namespace Sys2Proof.Machine

/-- A plane with bytes in its rows ends where it begins or later. -/
theorem Plane.base_le_last {k : Plane} (h : 0 < k.rowBytes) : k.base ≤ k.last := by
  unfold Plane.last
  generalize (k.rows - 1) * k.pitch = n
  omega

section Ready

variable {f : StreamFormat} {s : State} {dst : Surface} {sequence : List (Bool × Failure)}

/-- A ready command passes its checks. -/
theorem StreamReady.passes (h : StreamReady f s dst) (hseq : firstFailure sequence = none) :
    (streamPlan f dst sequence s).failure = none := by
  obtain ⟨hrows, hbytes, hpitch, hlast, -⟩ := h.target
  simp only [Surface.plane] at hrows hbytes hpitch
  refine firstFailure_append.2 ⟨hseq, geometryChecks_pass.2 ⟨?_, ?_, h.evenSize, nofun, ?_, hpitch, ?_, hlast⟩⟩
  · exact ⟨h.sourceSize.1.ne', h.sourceSize.2.ne'⟩
  · omega
  · exact fun k hk => (h.sources k hk).1.2.2.1
  · exact fun k hk => (h.sources k hk).1.2.2.2.1

/-- Its source planes do not meet the destination. -/
theorem StreamReady.no_overlap (h : StreamReady f s dst) : (streamPlan f dst sequence s).overlaps = false := by
  have hany : (f.planes s.params).any (fun k => k.meets (dst.plane 2)) = false :=
    List.any_eq_false.2 fun k hk => by simp [(h.sources k hk).2]
  simp only [Plan.overlaps, streamPlan, hany, Bool.false_and]

/-- No source plane's range holds a bus error. -/
theorem StreamReady.sources_quiet (h : StreamReady f s dst) : ∀ k ∈ f.planes s.params, s.busErrorIn k = false := by
  intro k hk
  obtain ⟨-, hbytes, -, -, hquiet⟩ := (h.sources k hk).1
  exact busErrorIn_of_quiet hquiet (Plane.base_le_last hbytes)

theorem clippedPixels_eq_nil {p : Params} (h : dst.width ≤ p.dstX ∨ dst.height ≤ p.dstY) :
    clippedPixels p dst = [] := by
  refine List.eq_nil_iff_forall_not_mem.2 fun c hc => ?_
  obtain ⟨-, hx, hy⟩ := mem_clippedPixels.1 hc
  omega

/-- A ready command whose position clips every pixel makes no access that could fail, stores nothing and completes. -/
theorem StreamReady.clipped (h : StreamReady f s dst) (hseq : firstFailure sequence = none)
    (hclip : dst.width ≤ s.params.dstX ∨ dst.height ≤ s.params.dstY) :
    executePlan (streamPlan f dst sequence s) s = .next (s.doneWith s.mem) := by
  have hpixels := clippedPixels_eq_nil hclip
  have hreads : (streamPlan f dst sequence s).reads = [] := by simp [streamPlan, hpixels]
  have hstores : (streamPlan f dst sequence s).stores = [] := by simp [streamPlan, hpixels]
  have hbus : (streamPlan f dst sequence s).busFault s = none :=
    busFault_eq_none (by simp [hreads, hstores]) (.inr h.sources_quiet)
  rw [executePlan_done (h.passes hseq) h.no_overlap hbus, hstores]
  rfl

end Ready

end Sys2Proof.Machine
end

section
/-! PROOFS. The obligations of the register state, each from the lemmas above. -/

namespace Sys2Proof.Proofs

open Machine

/-- Settles O8: every effect of an event keeps the invariant, and the inputs are no part of it. -/
theorem stepKeepsInvariant : Obligations.StepKeepsInvariant := by
  intro s t h hstep
  rcases step_next hstep with rfl | ⟨e, -, he⟩
  · exact h.withInputs _
  · exact (h.withInputs _).effect he

/-- Settles O7. -/
theorem invariantHoldsAtReset : Obligations.InvariantHoldsAtReset := State.Inv.reset

/-- Settles O9, from the six transitions of `Transition`. -/
theorem phaseTransitions : Obligations.PhaseTransitions := by
  intro s t h
  constructor
  · by_cases hne : t.phase = s.phase
    · rw [hne]
      cases s.phase <;> rfl
    · obtain ⟨e, -, htr⟩ := step_transition h hne
      exact htr.mayBecome
  · intro hne
    obtain ⟨e, he, htr⟩ := step_transition h hne
    refine ⟨e, he, ?_⟩
    cases htr with
    | accept addr hs ht hstore hb hr => exact .inl ⟨hs, ht, addr, hstore, hb, hr⟩
    | complete hs ht hcmd hirq => exact .inr (.inl ⟨hs, ht, hcmd, hirq⟩)
    | request hs ht hcmd hd hr => exact .inr (.inr (.inl ⟨hs, ht, hcmd, hd, hr⟩))
    | acknowledge hs ht hack hirq => exact .inr (.inr (.inr (.inl ⟨hs, ht, hack, hirq⟩)))
    | fail ht hcause hcode hirq => exact .inr (.inr (.inr (.inr (.inl ⟨ht, hcause, hcode, hirq⟩))))
    | reset ht hr => exact .inr (.inr (.inr (.inr (.inr ⟨ht, hr⟩))))

/-- Settles O10: of the six transitions only a reset leaves FAILED. -/
theorem failedLeftOnlyByReset : Obligations.FailedLeftOnlyByReset := by
  intro s t hx h hne
  obtain ⟨e, he, htr⟩ := step_transition h (by rwa [hx])
  cases htr with
  | accept _ hs => exact absurd (hx.symm.trans hs) (by decide)
  | complete hs => exact absurd (hx.symm.trans hs) (by decide)
  | request hs => exact absurd (hx.symm.trans hs) (by decide)
  | acknowledge hs => exact absurd (hx.symm.trans hs) (by decide)
  | fail ht => exact absurd ht hne
  | reset ht hr hcode => exact ⟨ht, hcode, e, he, hr⟩

/-- Settles O11. -/
theorem activeIndexChangesThreeWays : Obligations.ActiveIndexChangesThreeWays := by
  intro s t h hne
  rcases step_next h with rfl | ⟨e, he, heff⟩
  · exact absurd rfl hne
  · exact ⟨e, he, heff.activeIdx_changed hne⟩

/-- Settles O12. -/
theorem parametersFrozenWhileBusy : Obligations.ParametersFrozenWhileBusy := by
  intro s t hb h hne
  rcases step_next h with rfl | ⟨e, he, heff⟩
  · exact absurd rfl hne
  · exact ⟨e, he, heff.params_changed hb hne⟩

/-- Settles O13. -/
theorem gammaTableImmutableUntilReset : Obligations.GammaTableImmutableUntilReset := by
  intro s t hl h
  rcases step_next h with rfl | ⟨e, he, heff⟩
  · exact .inl ⟨hl, rfl⟩
  · exact (heff.table_kept hl).imp_right fun hr => ⟨e, he, hr⟩

/-- Settles O6, register by register. -/
theorem resetValues : Obligations.ResetValues := by
  refine ⟨fun r => ?_, rfl, rfl, rfl, rfl, rfl, rfl, rfl, rfl⟩
  cases r with
  | gammaLut k => rfl
  | _ => decide

/-- Settles O16: each listed offset holds a parameter register. -/
theorem parameterWriteWhileBusyRejected : Obligations.ParameterWriteWhileBusyRejected := by
  intro s off v hb hoff
  have hpar : (regAt off).any Reg.isParameter = true := by
    revert off
    decide
  obtain ⟨r, hr, hp⟩ := (Option.any_eq_true _ _).1 hpar
  rw [writeOffset, hr]
  exact regWrite_busy hp hb v

/-- Settles O17: a register that the map marks writable stands at a listed offset, so no other offset writes one. -/
theorem otherWritesIgnored : Obligations.OtherWritesIgnored := by
  intro s off v
  refine ⟨fun hoff => ?_, fun hv => ?_, fun hw hro hwin => ?_⟩
  · unfold writeOffset
    split
    · rename_i r hr
      obtain ⟨rfl, -⟩ := regAt_eq_some hr
      refine regWrite_ro (by_contra fun hacc => hoff (writable_offset hacc)) v s
    · rfl
  · have hbit : ¬ v.getLsbD 0 = true := by
      rw [BitVec.getLsbD, Nat.testBit_zero]
      simpa using hv
    exact if_neg hbit
  · suffices hnone : regAt off = none by rw [readOffset, hnone]
    refine regAt_eq_none ?_
    rintro r hk rfl
    by_cases hacc : r.access = .ro
    · rcases readOnly_offset hacc with hmem | ⟨k, rfl⟩
      · exact hro hmem
      · have := hk k rfl
        exact hwin (by simp only [Reg.offset]; omega)
    · exact hw (writable_offset hacc)

/-- Settles O18: each listed offset holds a full-width register. -/
theorem parameterReadBack : Obligations.ParameterReadBack := by
  intro s off v hb hoff
  have hfull : (regAt off).any Reg.isFullWidth = true := by
    revert off
    decide
  obtain ⟨r, hr, hr32⟩ := (Option.any_eq_true _ _).1 hfull
  obtain ⟨hp, hn⟩ := r.parameter_of_fullWidth hr32
  refine ⟨_, writeOffset_parameter hr hp hn hb v, rfl, ?_, fun other hne hv => ?_, ?_, ?_, ?_⟩
  · rw [readOffset_of_regAt hr, regRead_write_same hr32]
  · exact readOffset_write_other hr hne s v (.inl hv)
  all_goals
    rintro rfl
    obtain rfl := Option.some.inj hr
  · exact Params.srcSize_halves _
  · exact Params.dstSize_halves _
  · exact Params.dstPos_halves _

/-- Settles O19: CCM_CTRL and the coefficients are no FB_BASE, so every other register reads as before. -/
theorem coefficientReadBack : Obligations.CoefficientReadBack := by
  intro s v hb keeps
  have main {off value : Nat} {r : Reg} (hr : regAt off = some r) (hp : r.isParameter = true ∧ r ≠ .fbCfg)
      (hread : (regRead r { s with params := s.params.write r v }).toNat = value)
      (hbase : ∀ k, (s.params.write r v).fbBase k = s.params.fbBase k) : keeps off value :=
    ⟨_, writeOffset_parameter hr hp.1 hp.2 hb v, rfl, by rw [readOffset_of_regAt hr, hread],
      fun other hne => readOffset_write_other hr hne s v (.inr hbase)⟩
  refine ⟨main (r := .ccmCtrl) rfl (by decide) ?_ (fun _ => rfl), fun j k hj hk => ?_⟩
  · show ((flagBit (v.getLsbD 0)).setWidth 32).toNat = v.toNat % 2
    rw [BitVec.getLsbD, Nat.testBit_zero]
    rcases Nat.mod_two_eq_zero_or_one v.toNat with h | h <;> rw [h] <;> rfl
  · have table : ∀ j < 3, ∀ k < 3, (regAt (0x084 + 4 * (3 * j + k))).any Reg.isCoefficient = true := by decide
    obtain ⟨r, hr, hcoef⟩ := (Option.any_eq_true _ _).1 (table j hj k hk)
    exact main hr (r.parameter_of_coefficient hcoef) (regRead_write_coefficient hcoef s v)
      (fbBase_write_coefficient hcoef _ v)

/-- Settles O20. -/
theorem surfaceCountWriteAnyReadLegal : Obligations.SurfaceCountWriteAnyReadLegal := by
  refine ⟨by decide, fun s v => ?_⟩
  have hread : (readOffset 0x0C0 s).toNat = s.params.fbN.toNat := by
    show (s.params.fbN.setWidth 32).toNat = _
    rw [BitVec.toNat_setWidth]
    omega
  refine ⟨hread, fun h => ?_, fun hb => ?_⟩
  · have := h.surfaceCount_toNat
    rw [hread]
    simp only [List.mem_cons, List.not_mem_nil, or_false]
    omega
  · have hlegal : legalSurfaceCount (v.extractLsb' 0 3) = true ↔
        v.toNat % 8 = 2 ∨ v.toNat % 8 = 3 ∨ v.toNat % 8 = 4 := by
      rw [legalSurfaceCount_iff, BitVec.extractLsb'_toNat, Nat.shiftRight_zero]
      omega
    have hwrite : writeOffset 0x0C0 v s = .next (s.writeFbCfg v) := by
      simp [writeOffset, regAt, regWrite, Reg.access, hb]
    rw [hwrite, State.writeFbCfg, ← lowThree_eq]
    simp only [hlegal]
    split <;> rfl

/-- Settles O21. -/
theorem irqStatusWriteOneToClear : Obligations.IrqStatusWriteOneToClear := by
  intro s v
  refine ⟨?_, irq_iff s, ⟨_, rfl, rfl, fun k hk => ?_⟩, _, rfl, rfl, ?_⟩
  · show (s.irqStatus.setWidth 32).toNat < 8
    rw [BitVec.toNat_setWidth]
    omega
  · simp [hk]
  · show ((v.extractLsb' 0 3).setWidth 32).toNat = v.toNat % 8
    rw [lowThree_eq, BitVec.toNat_setWidth, BitVec.toNat_ofNat]
    omega

/-- Settles O22: the clearing store is performed first, so the event's bit is set after it. -/
theorem setWinsOverClear : Obligations.SetWinsOverClear := by
  intro s addr v rest hb ht clear together
  refine ⟨fun hx h => ?_, fun hx h => ?_, fun hx h => ?_⟩
  · obtain ⟨t, b, hst, -, hstep⟩ := step_clear_then hb ht (by simp [Event.rank]) h
    have hack := perform_vsyncAck (s := { s with inputs := rest, irqStatus := b }) hx
    exact ⟨t, _, hst, hstep.trans hack, rfl, rfl, or_irqDone b, rfl⟩
  · obtain ⟨t, b, hst, -, hstep⟩ := step_clear_then hb ht (by simp [Event.rank]) h
    have hd := displayError_of_waiting (s := { s with inputs := rest, irqStatus := b }) hx
    exact ⟨t, _, hst, hstep.trans hd, rfl, rfl, or_irqError b⟩
  · obtain ⟨t, b, hst, hin, hstep⟩ := step_clear_then hb ht (by simp [Event.rank]) h
    refine ⟨t, hst, hin, fun u hu => ?_, fun hnop => ?_⟩
    · have hrun := hstep.symm.trans hu
      rcases runCommand_phase (s := { s with inputs := rest, irqStatus := b }) hx hrun with
        ⟨hp, hirq⟩ | ⟨hp, -⟩ | ⟨hp, -, hirq⟩
      · exact ⟨fun _ => hirq, fun hf => absurd (hp.symm.trans hf) (by decide)⟩
      · simp [hp]
      · exact ⟨fun hi => absurd (hp.symm.trans hi) (by decide), fun _ => hirq⟩
    · have hrun := runCommand_nop (s := { s with inputs := rest, irqStatus := b }) hx hnop
      exact ⟨_, hstep.trans hrun, rfl⟩

/-- Settles O26. -/
theorem statusWord : Obligations.StatusWord := by
  intro s
  refine ⟨?_, errInfoWord_toNat s, rfl, rfl, rfl, rfl⟩
  show (Machine.statusWord s).toNat = _
  rw [statusWord_toNat]
  congr 1
  · simp only [flagBit_toNat, busy_eq, isFailed_eq, presentPending_eq, decide_eq_true_eq, mul_ite, mul_one, mul_zero]
  · cases s.errCode <;> rfl

/-- Settles O27: under the invariant INACTIVE_IDX is the next index of the ring. -/
theorem surfaceViews : Obligations.SurfaceViews := by
  intro s h
  have hnext := h.inactiveIdx_toNat
  obtain ⟨hw, hh⟩ := s.params.fbSize_halves
  refine ⟨?_, fbBase_eq_getD _ _, ?_, ?_, ?_⟩
  · show (fbActiveWord s).toNat = _
    rw [fbActiveWord_toNat, hnext]
  · show s.params.fbBase s.inactiveIdx = _
    rw [fbBase_eq_getD, hnext]
  · simp only [State.activeSurface, fbBase_eq_getD, hw, hh]
  · simp only [State.inactiveSurface, fbBase_eq_getD, hnext, hw, hh]

/-- Settles O28. -/
theorem gammaWindow : Obligations.GammaWindow := by
  intro s k v hk off word
  have hreg : regAt off = some (.gammaLut k) := regAt_offset (r := .gammaLut k) (by rintro _ ⟨⟩; exact hk)
  have hread : readOffset off s = Machine.gammaWindow s k := readOffset_of_regAt hreg s
  refine ⟨?_, fun hl => ?_, fun hl => ?_⟩
  · rw [writeOffset, hreg]
    exact regWrite_ro rfl v s
  · rw [hread, Machine.gammaWindow, hl]
    rfl
  · rw [hread, gammaWindow_toNat hl]
    exact ⟨rfl, fun h => by rw [h.lutTable hl]⟩

/-- Settles O30: such an access has no block offset. -/
theorem narrowRegisterAccessRefused : Obligations.NarrowRegisterAccessRefused := by
  intro s addr v size hb hnarrow
  have hnone : s.blockOffset addr size = none := by
    refine if_neg ?_
    rintro ⟨rfl, hge, hal⟩
    rcases hnarrow with h | h | h | h
    · cases h
    · cases h
    · omega
    · exact h hal
  simp [perform, hostStore, hostLoad, hb, hnone]

/-- Settles O38: the checks of the plan over the format's row of the tables, taken off one by one. -/
theorem streamChecksInOrder : Obligations.StreamChecksInOrder := by
  intro q s hx hq p srcW srcH target base pitch rows rowBytes fails geometry
  obtain ⟨f, -, rfl⟩ := List.mem_map.1
    (show q ∈ streamFormats.map fun f => (f.convertCommand, f.drawCommand, f.evenSides, f.planeRows) from hq)
  have hsw : s.params.srcW = srcW := s.params.srcSize_halves.1
  have hsh : s.params.srcH = srcH := s.params.srcSize_halves.2
  have hplane (r : Nat × Nat × Nat × Nat) :
      s.params.tablePlane r = ⟨BitVec.ofNat 2 r.1, base r.1, pitch r.1, rows r, rowBytes r⟩ := by
    rw [Params.tablePlane, hsw, hsh]
  have main {i : Instr} {plan : Plan} {dst : Surface} (hexec : exec i s = executePlan plan s)
      (hfail : plan.failure = firstFailure
        (geometryChecks s.params (f.planes s.params) dst 2 (f.oddSize s.params.srcW s.params.srcH) false)) :
      geometry i dst := by
    have report (g : Failure) (h : plan.failure = some g) :
        exec i s = .next (s.enterFailed g.code g.check g.plane 0) := by
      rw [hexec]
      exact executePlan_fails hx h
    rw [hfail, geometryChecks_first, planes_eq_rows, List.find?_map, List.find?_map] at report
    simp only [hsw, hsh, oddSize_iff, Function.comp_def, hplane, Plane.last, Surface.plane, addressSpace_le_iff,
      Nat.mul_comm dst.width 2, Bool.false_eq_true, false_and, if_false, Option.map_map] at report
    refine report_first report fun report => ?_
    refine report_first report fun report => ?_
    refine report_first report fun report => ?_
    split <;> rename_i hfind <;>
      simp only [hfind, Option.map_some, Option.some_or, Option.map_none, Option.none_or] at report
    · exact report _ rfl
    refine report_first report fun report => ?_
    split <;> rename_i hfind <;>
      simp only [hfind, Option.map_some, Option.some_or, Option.map_none, Option.none_or] at report
    · exact report _ rfl
    exact fun h => report _ (if_pos h)
  refine ⟨?_, fun hne => ?_⟩
  · split
    · rename_i hframe
      show exec f.drawCommand s = _
      rw [exec_drawCommand]
      exact executePlan_fails hx (drawPlan_bracketMissing f hframe)
    · rename_i hframe
      exact main (exec_drawCommand f s) (drawPlan_failure f (by simpa using hframe))
  · have htarget : s.params.dstSurface = target := by
      rw [Params.dstSurface, s.params.dstSize_halves.1, s.params.dstSize_halves.2]
    rw [← htarget]
    exact main (exec_convertCommand hne s) rfl

/-- Settles O39: the checks of the one plan, taken off one by one. -/
theorem sameSizeChecksInOrder : Obligations.SameSizeChecksInOrder := by
  intro q s hx hq p srcW srcH dstW dstH fails
  obtain ⟨plan, hplan, hfail⟩ : ∃ plan, commandPlan q.1 s = some plan ∧ plan.failure = firstFailure (geometryChecks
      s.params [s.params.srcPlane0 s.params.srcH (q.2.1 * s.params.srcW)] s.params.dstSurface q.2.2
      (decide (q.2.1 = 1 ∧ (s.params.srcW % 2 = 1 ∨ s.params.srcH % 2 = 1))) true) := by
    simp only [List.mem_cons, List.not_mem_nil, or_false] at hq
    rcases hq with rfl | rfl | rfl | rfl | rfl | rfl | hq
    · exact ⟨_, rfl, correctionPlan_failure (f := .rgb565) (by decide) _ _ s⟩
    · exact ⟨_, rfl, correctionPlan_failure (f := .bgr888) (by decide) _ _ s⟩
    · exact ⟨_, rfl, correctionPlan_failure (f := .argb8888) (by decide) _ _ s⟩
    · exact ⟨_, rfl, correctionPlan_failure (f := .rgb565) (by decide) _ _ s⟩
    · exact ⟨_, rfl, correctionPlan_failure (f := .bgr888) (by decide) _ _ s⟩
    · exact ⟨_, rfl, correctionPlan_failure (f := .argb8888) (by decide) _ _ s⟩
    · rcases hq with rfl | rfl | rfl | rfl | rfl | rfl | rfl | rfl <;> exact ⟨_, rfl, debayerPlan_failure _ _ s⟩
  have report (g : Failure) (h : plan.failure = some g) :
      exec q.1 s = .next (s.enterFailed g.code g.check g.plane 0) := by
    rw [exec_of_plan hplan]
    exact executePlan_fails hx h
  obtain ⟨hsw, hsh⟩ := s.params.srcSize_halves
  obtain ⟨hdw, hdh⟩ := s.params.dstSize_halves
  rw [hfail, geometryChecks_first, find_singleton_or, find_singleton_or] at report
  simp only [decide_eq_true_eq, true_and, Params.dstSurface, Params.srcPlane0, Plane.last, Surface.plane, hsw, hsh,
    hdw, hdh, Nat.mul_comm _ q.2.2, addressSpace_le_iff] at report
  refine report_first report fun report => ?_
  refine report_first report fun report => ?_
  refine report_first report fun report => ?_
  refine report_first report fun report => ?_
  refine report_first report fun report => ?_
  refine report_first report fun report => ?_
  refine report_first report fun report => ?_
  exact fun h => report _ (if_pos h)

/-- Settles O54: no pixel lands, so the command makes no access. -/
theorem fullyClippedWritesNothing : Obligations.FullyClippedWritesNothing := by
  intro q s hq clipped
  obtain ⟨f, -, rfl⟩ := List.mem_map.1
    (show q ∈ streamFormats.map fun f => (f.convertCommand, f.drawCommand, f) from hq)
  obtain ⟨hX, hY⟩ := s.params.dstPos_halves
  refine ⟨fun hne hready hclip => ?_, fun hframe hready hclip => ?_⟩
  · rw [exec_convertCommand hne]
    exact hready.clipped rfl (by rwa [hX, hY])
  · rw [exec_drawCommand]
    exact hready.clipped (by simp [firstFailure, hframe]) (by rwa [hX, hY])

end Sys2Proof.Proofs
end

section
/-! PROOFS. The bytes of a word in memory, least significant first (20_memory.md R72). -/

namespace Sys2Proof.Machine

theorem leBytes_getElem {v n k : Nat} (hk : k < (leBytes v n).length) :
    (leBytes v n)[k] = BitVec.ofNat 8 (v / 256 ^ k) := by
  induction n generalizing v k with
  | zero => simp at hk
  | succ n ih =>
    cases k with
    | zero => simp [leBytes]
    | succ k =>
      simp only [leBytes, List.getElem_cons_succ]
      rw [ih, Nat.div_div_eq_div_mul, ← Nat.pow_succ']

/-- Byte k of a little-endian write. -/
theorem Memory.read_writeLE_get {m : Memory} (hm : m.wf = true) {a n k : Nat} (v : Nat)
    (ha : a + n ≤ Config.addressSpace) (hk : k < n) :
    ((m.writeLE a n v).read (a + k)).toNat = v / 256 ^ k % 256 := by
  have hk' : k < (leBytes v n).length := by simpa using hk
  rw [Memory.writeLE, Memory.read_writeBytes_get _ hm (by simpa using ha) hk', leBytes_getElem, BitVec.toNat_ofNat]

theorem Memory.readLE_lt (m : Memory) (a n : Nat) : m.readLE a n < 256 ^ n := by
  induction n generalizing a with
  | zero => simp [Memory.readLE]
  | succ n ih =>
    have hlow := (m.read a).isLt
    have hhigh := ih (a + 1)
    rw [Memory.readLE, Nat.pow_succ']
    omega

/-- Byte k of a little-endian read; above its width the number read is 0. -/
theorem Memory.readLE_byte (m : Memory) (a n k : Nat) :
    m.readLE a n / 256 ^ k % 256 = if k < n then (m.read (a + k)).toNat else 0 := by
  induction n generalizing a k with
  | zero => simp [Memory.readLE]
  | succ n ih =>
    have hlow := (m.read a).isLt
    cases k with
    | zero =>
      rw [if_pos n.succ_pos, Memory.readLE, Nat.pow_zero, Nat.div_one, Nat.add_mul_mod_self_left, Nat.add_zero]
      exact Nat.mod_eq_of_lt hlow
    | succ k =>
      have hrest : m.readLE a (n + 1) / 256 = m.readLE (a + 1) n := by
        rw [Memory.readLE]
        omega
      rw [Nat.pow_succ', ← Nat.div_div_eq_div_mul, hrest, ih, Nat.add_right_comm a 1 k]
      simp only [Nat.succ_lt_succ_iff, Nat.add_assoc]

theorem AccessSize.bytes_le (size : AccessSize) : size.bytes ≤ 4 := by cases size <;> decide

/-- The number that a host load reads fits the model's 32-bit field. -/
theorem Memory.readLE_toNat (m : Memory) (a : Nat) (size : AccessSize) :
    (BitVec.ofNat 32 (m.readLE a size.bytes)).toNat = m.readLE a size.bytes := by
  rw [BitVec.toNat_ofNat]
  refine Nat.mod_eq_of_lt (lt_of_lt_of_le (m.readLE_lt a size.bytes) ?_)
  exact Nat.pow_le_pow_right (j := 4) (by decide : 0 < 256) size.bytes_le

end Sys2Proof.Machine
end

section
/-! PROOFS. Host loads and stores of memory, and their races with the running command (20_memory.md R70, R93). -/

namespace Sys2Proof.Machine

variable {s : State} {addr : Word} {size : AccessSize}

/-- The command in progress that a host access can race with (log 15). -/
theorem runningPlan_iff {p : Plan} : s.runningPlan = some p ↔
    s.phase = .exec ∧ p.failure = none ∧ ∃ i, decode s.curCmd = .ok i ∧ commandPlan i s = some p := by
  refine ⟨fun h => ?_, fun ⟨hx, hf, i, hi, hp⟩ => runningPlan_eq hx hi hp hf⟩
  obtain ⟨i, hx, hi, hp, hf⟩ := runningPlan_some h
  exact ⟨hx, hf, i, hi, hp⟩

theorem Plane.touchedBy_iff {k : Plane} {a n : Nat} : k.touchedBy a n = true ↔ a ≤ k.last ∧ k.base < a + n :=
  decide_eq_true_iff

theorem loadRaces_iff {a n : Nat} : s.loadRaces a n = true ↔
    ∃ p, s.runningPlan = some p ∧ a ≤ p.dest.last ∧ p.dest.base < a + n := by
  unfold State.loadRaces
  split <;> rename_i hp
  · simp [hp]
  · simp [hp, Plane.touchedBy_iff]

theorem storeRaces_iff {a n : Nat} : s.storeRaces a n = true ↔
    ∃ p, s.runningPlan = some p ∧ ∃ k ∈ p.dest :: p.sources, a ≤ k.last ∧ k.base < a + n := by
  unfold State.storeRaces
  split <;> rename_i hp
  · simp [hp]
  · simp [hp, Plane.touchedBy_iff]

/-- A host store to memory either races or stores its bytes. -/
theorem hostStore_memory (hb : s.hitsBlock addr size = false) (ha : addr.toNat + size.bytes ≤ Config.addressSpace)
    (v : Word) : hostStore addr size v s =
      if s.storeRaces addr.toNat size.bytes then .refused .hostRace
      else .next { s with mem := s.mem.writeLE addr.toNat size.bytes v.toNat } := by
  simp [hostStore, hb, not_lt.2 ha]

/-- A host load from memory either races or returns the bytes. -/
theorem hostLoad_memory (hb : s.hitsBlock addr size = false) (ha : addr.toNat + size.bytes ≤ Config.addressSpace) :
    hostLoad addr size s =
      if s.loadRaces addr.toNat size.bytes then .refused .hostRace
      else .next { s with hostData := BitVec.ofNat 32 (s.mem.readLE addr.toNat size.bytes) } := by
  simp [hostLoad, hb, not_lt.2 ha]

end Sys2Proof.Machine
end

section
/-! PROOFS. Overlap, and which plans may run in place or build the table (20_memory.md R94, 41_color_model.md R171). -/

namespace Sys2Proof.Machine

variable {i : Instr} {s : State} {p : Plan}

/-- The CCM_APPLY commands. -/
def ccmApplyCommands : List Instr := [.ccmApplyRgb565, .ccmApplyBgr888, .ccmApplyArgb8888]

/-- The GAMMA_APPLY commands. -/
def gammaApplyCommands : List Instr := [.gammaApplyRgb565, .gammaApplyBgr888, .gammaApplyArgb8888]

/-- Only the two corrections may run in place, and only GAMMA_APPLY begins with EnsureLUT. -/
theorem commandPlan_correction (h : commandPlan i s = some p) :
    (i ∈ ccmApplyCommands ∧ ∃ f, p = ccmPlan f s) ∨ (i ∈ gammaApplyCommands ∧ ∃ f, p = gammaPlan f s) ∨
      (i ∉ gammaApplyCommands ∧ p.inPlace = false ∧ p.usesLut = false) := by
  cases i <;> simp only [commandPlan, reduceCtorEq, Option.some.injEq] at h <;> subst h
  case ccmApplyRgb565 | ccmApplyBgr888 | ccmApplyArgb8888 => exact .inl ⟨by decide, _, rfl⟩
  case gammaApplyRgb565 | gammaApplyBgr888 | gammaApplyArgb8888 => exact .inr (.inl ⟨by decide, _, rfl⟩)
  all_goals exact .inr (.inr ⟨by decide, rfl, rfl⟩)

theorem commandPlan_usesLut (h : commandPlan i s = some p) : p.usesLut = true ↔ i ∈ gammaApplyCommands := by
  rcases commandPlan_correction h with ⟨hi, f, rfl⟩ | ⟨hi, f, rfl⟩ | ⟨hi, -, hl⟩
  · have hne : ∀ i ∈ ccmApplyCommands, i ∉ gammaApplyCommands := by decide
    simpa [ccmPlan, correctionPlan] using hne i hi
  · simpa [gammaPlan, correctionPlan] using hi
  · simp [hl, hi]

/-- In place the command is a correction whose source is its destination. -/
theorem commandPlan_of_inPlace (h : commandPlan i s = some p) (hp : p.inPlace = true) :
    i ∈ ccmApplyCommands ++ gammaApplyCommands ∧ s.params.srcBase0 = s.params.dstBase ∧
      s.params.srcPitch0 = s.params.dstPitch := by
  rcases commandPlan_correction h with ⟨hi, f, rfl⟩ | ⟨hi, f, rfl⟩ | ⟨-, hn, -⟩
  · exact ⟨List.mem_append_left _ hi, by simpa [ccmPlan, correctionPlan] using hp⟩
  · exact ⟨List.mem_append_right _ hi, by simpa [gammaPlan, correctionPlan] using hp⟩
  · simp [hn] at hp

theorem Plan.overlaps_iff : p.overlaps = true ↔
    (∃ k ∈ p.sources, k.base ≤ p.dest.last ∧ p.dest.base ≤ k.last) ∧ p.inPlace = false := by
  simp [Plan.overlaps, Plane.meets]

end Sys2Proof.Machine
end

section
/-! PROOFS. DISP_ERR, and what the command that it stops leaves (60_exceptions.md R275, R277). -/

namespace Sys2Proof.Machine

variable {s : State} {p : Plan}

/-- Nothing is in progress that a stop could cut short. -/
theorem stopCommand_of_none (h : s.runningPlan = none) : stopCommand s = .next s := by simp [stopCommand, h]

theorem displayError_of_stop {u : State} (h : stopCommand s = .next u) (hu : u.phase ≠ .failed) :
    displayError s = .next (u.enterFailed .hardwareFault 17 0 0) := by
  rw [displayError, h, afterStop, raiseError_of_ne hu]

theorem displayError_of_failed (hx : s.phase = .failed) : displayError s = .next s := by
  rw [displayError, stopCommand_of_ne (by simp [hx]), afterStop, raiseError_of_failed hx]

theorem displayError_of_overlap (h : s.runningPlan = some p) (ho : p.overlaps = true) :
    displayError s = .refused .sourceDestinationOverlap := by
  simp [displayError, stopCommand, h, ho, afterStop]

/-- EnsureLUT, where the command begins with it, is no access to memory. -/
theorem ensureLutIf_mem (b : Bool) (s : State) : (if b then ensureLut s else s).mem = s.mem := by cases b <;> simp

theorem stopPlan_phase (s : State) (p : Plan) : (s.stopPlan p).phase = s.phase := by rw [State.stopPlan_eq]

theorem stopPlan_irqStatus (s : State) (p : Plan) : (s.stopPlan p).irqStatus = s.irqStatus := by rw [State.stopPlan_eq]

theorem stopPlan_curCmd (s : State) (p : Plan) : (s.stopPlan p).curCmd = s.curCmd := by rw [State.stopPlan_eq]

section Draws

variable {f : RgbFormat} {d : Surface} {L : List (Nat × Nat)} {pos : Nat × Nat → Nat × Nat}
  {bytes : Nat × Nat → List Byte}

/-- Wherever the stop hits the command, a byte outside the destination range is left alone. -/
theorem Plan.Draws.stopPlan_outside (h : p.Draws f d L pos bytes) (s : State) {a : Nat}
    (ha : a < p.dest.base ∨ p.dest.last < a) : (s.stopPlan p).mem.read a = s.mem.read a := by
  rcases s.stopPlan_cases p with hs | hs <;> rw [hs]
  rw [h.stop_outside _ ha, ensureLutIf_mem]

/-- Wherever the stop hits the command, a byte is old or new. -/
theorem Plan.Draws.stopPlan_read (h : p.Draws f d L pos bytes) (hm : s.mem.wf = true) (a : Nat) :
    (s.stopPlan p).mem.read a = s.mem.read a ∨
      (s.stopPlan p).mem.read a = (applyStores p.stores s.mem).read a := by
  rcases s.stopPlan_cases p with hs | hs <;> rw [hs]
  · exact .inl rfl
  · have hmem := ensureLutIf_mem p.usesLut s
    rw [← hmem] at hm ⊢
    exact h.stop_read hm a

end Draws

/-- The stop hits the command before its effects, or after they began with the table. -/
theorem stopPlan_unchanged_or_begun (s : State) (p : Plan) :
    (s.stopPlan p).mem = s.mem ∧ (s.stopPlan p).lutRam = s.lutRam ∧ (s.stopPlan p).lutValid = s.lutValid ∨
      (s.stopPlan p).lutRam = (if p.usesLut then ensureLut s else s).lutRam ∧
        (s.stopPlan p).lutValid = (if p.usesLut then ensureLut s else s).lutValid := by
  rcases s.stopPlan_cases p with hs | hs <;> rw [hs]
  · exact .inl ⟨rfl, rfl, rfl⟩
  · exact .inr ⟨rfl, rfl⟩

end Sys2Proof.Machine
end

section
/-! PROOFS. The obligations of memory, each from the lemmas above. -/

namespace Sys2Proof.Proofs

open Machine

/-- Settles O31: an access that lies apart from the running command's ranges does not race with it. -/
theorem hostMemoryLittleEndian : Obligations.HostMemoryLittleEndian := by
  intro s addr v size hb ha apart running
  refine ⟨fun hm hapart => ?_, fun hapart => ?_⟩
  · have hrace : ¬ s.storeRaces addr.toNat size.bytes = true := by
      rw [storeRaces_iff]
      rintro ⟨p, hp, k, hk, hle, hlt⟩
      rcases hapart p (runningPlan_iff.1 hp) k hk with h | h <;> omega
    refine ⟨_, (hostStore_memory hb ha v).trans (if_neg hrace), Memory.wf_writeLE hm _ ha,
      fun k hk => Memory.read_writeLE_get hm _ ha hk, fun a h => Memory.read_writeLE_other _ _ h⟩
  · have hrace : ¬ s.loadRaces addr.toNat size.bytes = true := by
      rw [loadRaces_iff]
      rintro ⟨p, hp, hle, hlt⟩
      rcases hapart p (runningPlan_iff.1 hp) with h | h <;> omega
    refine ⟨_, (hostLoad_memory hb ha).trans (if_neg hrace), fun k _ => ?_⟩
    rw [Memory.readLE_toNat, Memory.readLE_byte]

/-- Settles O32. -/
theorem hostRaceRefused : Obligations.HostRaceRefused := by
  intro s i p addr v size hx hi hp hf hb ha
  have hrun := runningPlan_eq hx hi hp hf
  exact ⟨fun hmeets => (hostStore_memory hb ha v).trans (if_pos (storeRaces_iff.2 ⟨p, hrun, hmeets⟩)),
    fun hmeets => (hostLoad_memory hb ha).trans (if_pos (loadRaces_iff.2 ⟨p, hrun, hmeets⟩))⟩

/-- Settles O34: outside EXEC nothing is in progress; in EXEC the error finds what the stopped command leaves. -/
theorem displayErrorDuringExec : Obligations.DisplayErrorDuringExec := by
  intro s op failed
  have busyOp {u : State} (hu : u.phase = .exec ∨ u.phase = .waitVsync) (hc : u.curCmd = s.curCmd) :
      u.runningOp = op := by
    rw [runningOp_of_busy ((busy_iff u).2 hu), hc]
  have entered {u : State} {o : Byte} (hstop : stopCommand s = .next u) (hu : u.phase ≠ .failed)
      (ho : u.runningOp = o) (hirq : u.irqStatus = s.irqStatus) : perform .dispErr s = .next (failed u o) := by
    have h := displayError_of_stop hstop hu
    rwa [State.enterFailed, ho, hirq] at h
  refine ⟨displayError_of_failed, fun hx => ?_, fun hx => ⟨?_, fun hinv => ?_⟩, fun hx hnone => ?_,
    fun hx i p hi hp hf ho => displayError_of_overlap (runningPlan_eq hx hi hp hf) ho,
    fun hx i p hm hi hp hf ho => ?_⟩
  · exact entered (stopCommand_of_ne (by simp [hx])) (by simp [hx])
      (runningOp_of_not_busy ((not_busy_iff s).2 (.inl hx))) rfl
  · exact entered (stopCommand_of_ne (by simp [hx])) (by simp [hx]) (busyOp (.inr hx) rfl) rfl
  · obtain ⟨-, -, hcmd⟩ := hinv.waiting hx
    show BitVec.ofNat 8 s.curCmd.toNat = 0x40
    rw [hcmd]
    decide
  · have hrun : s.runningPlan = none := Option.eq_none_iff_forall_ne_some.2 fun p hp => by
      obtain ⟨-, hf, i, hi, hp⟩ := runningPlan_iff.1 hp
      exact hnone i p hi hp hf
    exact entered (stopCommand_of_none hrun) (by simp [hx]) (busyOp (.inl hx) rfl) rfl
  · intro begun
    obtain ⟨f, d, L, pos, bytes, hdraws⟩ := commandPlan_draws hp hf
    have hphase : (s.stopPlan p).phase = .exec := (stopPlan_phase s p).trans hx
    have hbegun : begun = if p.usesLut then ensureLut s else s := if_congr (commandPlan_usesLut hp).symm rfl rfl
    rw [hbegun]
    exact ⟨s.stopPlan p,
      entered (stopCommand_of_plan (runningPlan_eq hx hi hp hf) ho) (by simp [hphase])
        (busyOp (.inl hphase) (stopPlan_curCmd s p)) (stopPlan_irqStatus s p),
      s.stopPlan_eq p, fun a => hdraws.stopPlan_outside s, hdraws.stopPlan_read hm, stopPlan_unchanged_or_begun s p⟩

/-- Settles O36. -/
theorem overlapRefused : Obligations.OverlapRefused := by
  intro s i p hp hf hmeets
  refine ⟨fun hout => ?_, commandPlan_of_inPlace hp⟩
  rw [exec_of_plan hp]
  exact executePlan_of_overlap hf (Plan.overlaps_iff.2 ⟨hmeets, hout⟩)

/-- Settles O29: such an access has its offset in the block. -/
theorem registerReadsHaveNoSideEffect : Obligations.RegisterReadsHaveNoSideEffect := by
  intro s addr hb hal hge
  have hoff : s.blockOffset addr .word = some (addr.toNat - s.engineBase.toNat) := if_pos ⟨rfl, hge, hal⟩
  simp [perform, hostLoad, hb, hoff]

end Sys2Proof.Proofs
end

section
/-! PROOFS. The codes of the operations and the formats, and the pairs of formats that an operation supports (30_encoding.md
R101–R103). -/

namespace Sys2Proof

/-- R101: the OP value of an operation. -/
def Op.code : Op → Byte
  | .nop => 0x00
  | .pixYuv2rgb => 0x01
  | .pixPack565 => 0x02
  | .pixUnpack565 => 0x03
  | .pixCcm => 0x04
  | .pixGamma => 0x05
  | .ccmApply => 0x10
  | .gammaBuild => 0x11
  | .gammaApply => 0x12
  | .debayer => 0x20
  | .convert => 0x30
  | .present => 0x40
  | .beginFrame => 0x50
  | .draw => 0x51
  | .endFrame => 0x52

/-- R102: the code of a format. -/
def PixelFormat.code : PixelFormat → Byte
  | .rgb565 => 0x00
  | .bgr888 => 0x01
  | .argb8888 => 0x02
  | .i420 => 0x10
  | .yv12 => 0x11
  | .i422 => 0x12
  | .i444 => 0x13
  | .i400 => 0x14
  | .nv12 => 0x18
  | .nv21 => 0x19
  | .yuy2 => 0x1C
  | .uyvy => 0x1D
  | .bayerRggb => 0x20
  | .bayerGrbg => 0x21
  | .bayerGbrg => 0x22
  | .bayerBggr => 0x23

/-- R101's table read both ways. -/
theorem decodeOp_eq_some {b : Byte} {o : Op} : decodeOp b = some o ↔ b = o.code := by
  constructor
  · intro h
    unfold decodeOp at h
    split at h <;> cases h <;> rfl
  · rintro rfl
    cases o <;> rfl

theorem decodeOp_eq_none {b : Byte} : decodeOp b = none ↔ ∀ o : Op, b ≠ o.code := by
  simp [Option.eq_none_iff_forall_ne_some, decodeOp_eq_some]

/-- R102's table read both ways. -/
theorem decodeFormat_eq_some {b : Byte} {x : PixelFormat} : decodeFormat b = some x ↔ b = x.code := by
  constructor
  · intro h
    unfold decodeFormat at h
    split at h <;> cases h <;> rfl
  · rintro rfl
    cases x <;> rfl

theorem PixelFormat.code_inj {x y : PixelFormat} : x.code = y.code ↔ x = y := by
  constructor
  · intro h
    exact Option.some.inj ((decodeFormat_eq_some.2 rfl).symm.trans (decodeFormat_eq_some.2 h))
  · rintro rfl
    rfl

/-- The listed codes of R102 are those that name a format. -/
theorem mem_formatCodes {b : Byte} : b ∈ formatCodes ↔ ∃ x : PixelFormat, b = x.code := by
  constructor
  · intro h
    have named : ∀ c ∈ formatCodes, (decodeFormat c).isSome := by decide
    obtain ⟨x, hx⟩ := Option.isSome_iff_exists.1 (named b h)
    exact ⟨x, decodeFormat_eq_some.1 hx⟩
  · rintro ⟨x, rfl⟩
    cases x <;> decide

theorem decodeFormat_eq_none {b : Byte} : decodeFormat b = none ↔ b ∉ formatCodes := by
  simp [Option.eq_none_iff_forall_ne_some, decodeFormat_eq_some, mem_formatCodes]

/-- R101: the operations that use neither format field. -/
def Op.plain : List Op :=
  [.nop, .pixYuv2rgb, .pixPack565, .pixUnpack565, .pixCcm, .pixGamma, .gammaBuild, .present, .beginFrame, .endFrame]

theorem selectPlain_isSome {o : Op} : (selectPlain o).isSome ↔ o ∈ Op.plain := by cases o <;> decide

theorem selectPlain_fields {o : Op} {i : Instr} (h : selectPlain o = some i) : i.fields = ⟨0, 0, 0, o.code⟩ := by
  cases o <;> cases h <;> rfl

/-- R103: the source formats of an operation that has an image. -/
def Op.sources : Op → List Byte
  | .ccmApply | .gammaApply => [0x00, 0x01, 0x02]
  | .debayer => [0x20, 0x21, 0x22, 0x23]
  | .convert => [0x01, 0x10, 0x11, 0x12, 0x13, 0x14, 0x18, 0x19, 0x1C, 0x1D]
  | .draw => [0x00, 0x01, 0x10, 0x11, 0x12, 0x13, 0x14, 0x18, 0x19, 0x1C, 0x1D]
  | _ => []

/-- R103: its destination formats for a source format. -/
def Op.destinations (o : Op) (sfmt : Byte) : List Byte :=
  match o with
  | .ccmApply | .gammaApply => [sfmt]
  | .debayer => [0x00, 0x01]
  | .convert | .draw => [0x00]
  | _ => []

/-! The selections of R103: which source formats they know, and the fields of the command they give. -/

theorem selectCcm_eq_none {x : PixelFormat} : selectCcm x = none ↔ x.code ∉ Op.ccmApply.sources := by
  cases x <;> decide

theorem selectGamma_eq_none {x : PixelFormat} : selectGamma x = none ↔ x.code ∉ Op.gammaApply.sources := by
  cases x <;> decide

theorem selectDebayer_eq_none {x : PixelFormat} : selectDebayer x = none ↔ x.code ∉ Op.debayer.sources := by
  cases x <;> decide

theorem selectConvert_eq_none {x : PixelFormat} : selectConvert x = none ↔ x.code ∉ Op.convert.sources := by
  cases x <;> decide

theorem selectDraw_eq_none {x : PixelFormat} : selectDraw x = none ↔ x.code ∉ Op.draw.sources := by
  cases x <;> decide

theorem selectCcm_fields {x : PixelFormat} {i : Instr} (h : selectCcm x = some i) :
    i.fields = ⟨0, x.code, x.code, Op.ccmApply.code⟩ := by
  cases x <;> cases h <;> rfl

theorem selectGamma_fields {x : PixelFormat} {i : Instr} (h : selectGamma x = some i) :
    i.fields = ⟨0, x.code, x.code, Op.gammaApply.code⟩ := by
  cases x <;> cases h <;> rfl

theorem selectDebayer_fields {x : PixelFormat} {toBgr to565 : Instr} (h : selectDebayer x = some (toBgr, to565)) :
    toBgr.fields = ⟨0, PixelFormat.bgr888.code, x.code, Op.debayer.code⟩ ∧
      to565.fields = ⟨0, PixelFormat.rgb565.code, x.code, Op.debayer.code⟩ := by
  cases x <;> cases h <;> exact ⟨rfl, rfl⟩

theorem selectConvert_fields {x : PixelFormat} {i : Instr} (h : selectConvert x = some i) :
    i.fields = ⟨0, PixelFormat.rgb565.code, x.code, Op.convert.code⟩ := by
  cases x <;> cases h <;> rfl

theorem selectDraw_fields {x : PixelFormat} {i : Instr} (h : selectDraw x = some i) :
    i.fields = ⟨0, PixelFormat.rgb565.code, x.code, Op.draw.code⟩ := by
  cases x <;> cases h <;> rfl

end Sys2Proof
end

section
/-! PROOFS. What the decoder answers for every word, step by step (30_encoding.md R104). -/

namespace Sys2Proof

/-- The answer `r` to listed formats under an operation that has an image: an unsupported source before an unsupported
destination, and else the command of these fields. -/
def SelectionOf (o : Op) (f : CmdFields) (r : Except DecodeError Instr) : Prop :=
  if f.sfmt ∉ o.sources then r = .error (.unsupportedSource o)
  else if f.dfmt ∉ o.destinations f.sfmt then r = .error (.unsupportedDestination o)
  else ∃ i, r = .ok i ∧ i.fields = f

/-- An operation with one destination format `t` for the source format `x`, whose commands `selected` names. -/
theorem selectionOf_single {o : Op} {x d t : PixelFormat} {selected : Option Instr}
    (hdest : o.destinations x.code = [t.code]) (hnone : selected = none ↔ x.code ∉ o.sources)
    (hfields : ∀ {i}, selected = some i → i.fields = ⟨0, t.code, x.code, o.code⟩)
    (herror : selected = none → selectImage o x d = .error (.unsupportedSource o))
    (hok : ∀ {i}, selected = some i →
      selectImage o x d = if d = t then .ok i else .error (.unsupportedDestination o)) :
    SelectionOf o ⟨0, d.code, x.code, o.code⟩ (selectImage o x d) := by
  unfold SelectionOf
  cases hsel : selected with
  | none => rw [if_pos (hnone.1 hsel), herror hsel]
  | some i =>
    have hsource : ¬ x.code ∉ o.sources := mt hnone.2 (by simp [hsel])
    rw [if_neg hsource, hok hsel, hdest]
    by_cases hd : d = t
    · rw [if_neg (by simp [hd]), if_pos hd, hd]
      exact ⟨i, rfl, hfields hsel⟩
    · rw [if_pos (by simpa [PixelFormat.code_inj] using hd), if_neg hd]

/-- DEBAYER has two destination formats, each with its own command. -/
theorem selectionOf_debayer (x d : PixelFormat) :
    SelectionOf .debayer ⟨0, d.code, x.code, Op.debayer.code⟩ (selectImage .debayer x d) := by
  unfold SelectionOf
  cases hsel : selectDebayer x with
  | none =>
    rw [if_pos (selectDebayer_eq_none.1 hsel)]
    simp [selectImage, hsel]
  | some pair =>
    obtain ⟨toBgr, to565⟩ := pair
    obtain ⟨hbgr, h565⟩ := selectDebayer_fields hsel
    rw [if_neg (mt selectDebayer_eq_none.2 (by simp [hsel]))]
    cases d
    case rgb565 => exact ⟨to565, by simp [selectImage, hsel], h565⟩
    case bgr888 => exact ⟨toBgr, by simp [selectImage, hsel], hbgr⟩
    all_goals simp [selectImage, hsel, Op.destinations, PixelFormat.code]

/-- R103: the selection under an operation that has an image. -/
theorem selectionOf_selectImage {o : Op} (h : selectPlain o = none) (x d : PixelFormat) :
    SelectionOf o ⟨0, d.code, x.code, o.code⟩ (selectImage o x d) := by
  cases o
  case ccmApply =>
    exact selectionOf_single rfl selectCcm_eq_none selectCcm_fields (fun h => by simp [selectImage, h])
      (fun h => by simp [selectImage, h])
  case gammaApply =>
    exact selectionOf_single rfl selectGamma_eq_none selectGamma_fields (fun h => by simp [selectImage, h])
      (fun h => by simp [selectImage, h])
  case debayer => exact selectionOf_debayer x d
  case convert =>
    exact selectionOf_single rfl selectConvert_eq_none selectConvert_fields (fun h => by simp [selectImage, h])
      (fun h => by simp [selectImage, h])
  case draw =>
    exact selectionOf_single rfl selectDraw_eq_none selectDraw_fields (fun h => by simp [selectImage, h])
      (fun h => by simp [selectImage, h])
  all_goals cases h

section
variable {f : CmdFields}

theorem decodeFields_of_reserved (h : f.rsvd ≠ 0) : decodeFields f = .error .reservedBits := if_pos h

theorem decodeFields_of_undefinedOp (hr : f.rsvd = 0) (hop : decodeOp f.op = none) :
    decodeFields f = .error .undefinedOp := by simp [decodeFields, hr, hop]

/-- The last two steps for an operation that uses no format: both fields are 0. -/
theorem decodeFields_of_plain {o : Op} {i : Instr} (hr : f.rsvd = 0) (hop : decodeOp f.op = some o)
    (hi : selectPlain o = some i) :
    decodeFields f = if f.sfmt ≠ 0 then .error .illegalSource
      else if f.dfmt ≠ 0 then .error .illegalDestination else .ok i := by
  simp [decodeFields, hr, hop, hi]

/-- The last two steps for an operation that has an image, and the selection. -/
theorem decodeFields_of_image {o : Op} (hr : f.rsvd = 0) (hop : decodeOp f.op = some o) (ho : selectPlain o = none) :
    if f.sfmt ∉ formatCodes then decodeFields f = .error .illegalSource
    else if f.dfmt ∉ formatCodes then decodeFields f = .error .illegalDestination
    else SelectionOf o f (decodeFields f) := by
  split
  · rename_i hs
    simp [decodeFields, hr, hop, ho, decodeFormat_eq_none.2 hs]
  rename_i hs
  obtain ⟨x, hx⟩ := mem_formatCodes.1 (not_not.1 hs)
  split
  · rename_i hd
    simp [decodeFields, hr, hop, ho, decodeFormat_eq_some.2 hx, decodeFormat_eq_none.2 hd]
  rename_i hd
  obtain ⟨d, hd⟩ := mem_formatCodes.1 (not_not.1 hd)
  have hf : f = ⟨0, d.code, x.code, o.code⟩ := by
    rw [← hr, ← hd, ← hx, ← decodeOp_eq_some.1 hop]
  have hdecode : decodeFields f = selectImage o x d := by
    simp [decodeFields, hr, hop, ho, decodeFormat_eq_some.2 hx, decodeFormat_eq_some.2 hd]
  rw [hdecode, hf]
  exact selectionOf_selectImage ho x d

end

/-- The fields of an answered command are the fields decoded (30_encoding.md R103, R105). -/
theorem fields_of_decodeFields {f : CmdFields} {i : Instr} (h : decodeFields f = .ok i) : i.fields = f := by
  by_cases hr : f.rsvd = 0
  · cases hop : decodeOp f.op with
    | none => cases h.symm.trans (decodeFields_of_undefinedOp hr hop)
    | some o =>
      cases ho : selectPlain o with
      | some j =>
        rw [decodeFields_of_plain hr hop ho] at h
        split at h
        · cases h
        split at h
        · cases h
        rename_i hs hd
        obtain rfl := Except.ok.inj h
        rw [selectPlain_fields ho, ← decodeOp_eq_some.1 hop]
        show _ = CmdFields.mk f.rsvd f.dfmt f.sfmt f.op
        rw [hr, not_not.1 hs, not_not.1 hd]
      | none =>
        have himage := decodeFields_of_image hr hop ho
        unfold SelectionOf at himage
        rw [h] at himage
        split_ifs at himage
        obtain ⟨j, hj, hfields⟩ := himage
        rwa [Except.ok.inj hj]
  · cases h.symm.trans (decodeFields_of_reserved hr)

/-- R103: every row of the selection table is decoded to its command. -/
theorem decodeFields_fields (i : Instr) : decodeFields i.fields = .ok i := by cases i <;> rfl

theorem decode_encode (i : Instr) : decode (encode i) = .ok i := by
  rw [decode, (Laws.legalWord i).2, decodeFields_fields]

theorem eq_encode_of_decode {w : Word} {i : Instr} (h : decode w = .ok i) : w = encode i := by
  rw [encode, fields_of_decodeFields h, Machine.toWord_ofWord]

/-- R101: the listed OP values are those that name an operation. -/
theorem CmdFields.exists_op_of_opListed {f : CmdFields} (h : f.opListed = true) : ∃ o : Op, f.op = o.code := by
  have named : ∀ b ∈ [0x00#8, 0x01#8, 0x02#8, 0x03#8, 0x04#8, 0x05#8, 0x10#8, 0x11#8, 0x12#8, 0x20#8, 0x30#8, 0x40#8,
      0x50#8, 0x51#8, 0x52#8], (decodeOp b).isSome := by decide
  obtain ⟨o, ho⟩ := Option.isSome_iff_exists.1 (named f.op (List.contains_iff_mem.1 h))
  exact ⟨o, decodeOp_eq_some.1 ho⟩

theorem CmdFields.usesFormats_iff {f : CmdFields} {o : Op} (hop : f.op = o.code) :
    f.usesFormats = true ↔ selectPlain o = none := by
  rw [usesFormats, hop]
  cases o <;> decide

/-- R103: the supported pairs of formats of an operation that has an image. -/
theorem CmdFields.supported_iff {f : CmdFields} {o : Op} (hop : f.op = o.code) (ho : selectPlain o = none) :
    f.supported = true ↔ f.sfmt ∈ o.sources ∧ f.dfmt ∈ o.destinations f.sfmt := by
  cases o
  case ccmApply | gammaApply | debayer | convert | draw =>
    simp [supported, hop, Op.code, Op.sources, Op.destinations]
  all_goals cases ho

/-- R103, R105: a word whose fields pass the five checks is a command. -/
theorem exists_decodeFields_of_wellFormed {f : CmdFields} (h : f.wellFormed = true) : ∃ i, decodeFields f = .ok i := by
  simp only [CmdFields.wellFormed, Bool.and_eq_true] at h
  obtain ⟨⟨⟨⟨hrsvd, hlisted⟩, hsfmt⟩, hdfmt⟩, hsupp⟩ := h
  have hr : f.rsvd = 0 := eq_of_beq hrsvd
  obtain ⟨o, hcode⟩ := CmdFields.exists_op_of_opListed hlisted
  have hop : decodeOp f.op = some o := decodeOp_eq_some.2 hcode
  have huses : f.usesFormats = true ↔ selectPlain o = none := CmdFields.usesFormats_iff hcode
  unfold CmdFields.sfmtLegal at hsfmt
  unfold CmdFields.dfmtLegal at hdfmt
  cases ho : selectPlain o with
  | some i =>
    have hplain : ¬ f.usesFormats = true := by simp [huses, ho]
    rw [if_neg hplain, beq_iff_eq] at hsfmt hdfmt
    exact ⟨i, by simp [decodeFields_of_plain hr hop ho, hsfmt, hdfmt]⟩
  | none =>
    rw [if_pos (huses.2 ho)] at hsfmt hdfmt
    obtain ⟨hsource, hdest⟩ := (CmdFields.supported_iff hcode ho).1 hsupp
    have hdecode := decodeFields_of_image hr hop ho
    rw [if_neg (not_not.2 (List.contains_iff_mem.1 hsfmt)), if_neg (not_not.2 (List.contains_iff_mem.1 hdfmt)),
      SelectionOf, if_neg (not_not.2 hsource), if_neg (not_not.2 hdest)] at hdecode
    exact hdecode.imp fun i => And.left

/-- R105: the legal words are the words that decode. -/
theorem CmdFields.wellFormed_iff {f : CmdFields} : f.wellFormed = true ↔ ∃ i, decodeFields f = .ok i := by
  refine ⟨exists_decodeFields_of_wellFormed, ?_⟩
  rintro ⟨i, hi⟩
  rw [← fields_of_decodeFields hi]
  exact (Laws.legalWord i).1

end Sys2Proof
end

section
/-! PROOFS. The decoder's steps on the fields as numbers (30_encoding.md R100, R104). -/

namespace Sys2Proof

/-- R100: the four fields of a word as numbers. -/
theorem ofWord_toNat (w : Word) :
    (CmdFields.ofWord w).op.toNat = w.toNat % 256 ∧ (CmdFields.ofWord w).sfmt.toNat = w.toNat / 256 % 256 ∧
      (CmdFields.ofWord w).dfmt.toNat = w.toNat / 65536 % 256 ∧ (CmdFields.ofWord w).rsvd.toNat = w.toNat / 16777216 := by
  have := w.isLt
  simp only [CmdFields.ofWord, BitVec.extractLsb'_toNat]
  omega

/-- The steps of R104 for an operation that uses no format, on the numbers of the fields. -/
theorem decodeFields_plain_toNat {f : CmdFields} {o : Op} {i : Instr} (hr : f.rsvd = 0) (hop : decodeOp f.op = some o)
    (hi : selectPlain o = some i) {sfmt dfmt : Nat} (hs : f.sfmt.toNat = sfmt) (hd : f.dfmt.toNat = dfmt) :
    if sfmt ≠ 0 then decodeFields f = .error .illegalSource
    else if dfmt ≠ 0 then decodeFields f = .error .illegalDestination
    else ∃ i, decodeFields f = .ok i := by
  have zero (b : Byte) : b.toNat ≠ 0 ↔ b ≠ 0 := not_congr (BitVec.toNat_inj (y := 0))
  rw [decodeFields_of_plain hr hop hi, ← hs, ← hd]
  simp only [zero]
  split_ifs
  · rfl
  · rfl
  · exact ⟨i, rfl⟩

/-- The steps of R104 for an operation that has an image, on the numbers of the fields. -/
theorem decodeFields_image_toNat {f : CmdFields} {o : Op} (hr : f.rsvd = 0) (hop : decodeOp f.op = some o)
    (ho : selectPlain o = none) {sources destinations : List Nat} (hs : sources = o.sources.map BitVec.toNat)
    (hd : destinations = (o.destinations f.sfmt).map BitVec.toNat) :
    if f.sfmt.toNat ∉ formatCodes.map BitVec.toNat then decodeFields f = .error .illegalSource
    else if f.dfmt.toNat ∉ formatCodes.map BitVec.toNat then decodeFields f = .error .illegalDestination
    else if f.sfmt.toNat ∉ sources then decodeFields f = .error (.unsupportedSource o)
    else if f.dfmt.toNat ∉ destinations then decodeFields f = .error (.unsupportedDestination o)
    else ∃ i, decodeFields f = .ok i := by
  have h := decodeFields_of_image hr hop ho
  unfold SelectionOf at h
  simp only [hs, hd, List.mem_map_of_injective BitVec.toNat_injective]
  split_ifs at h ⊢
  exacts [h.imp fun i => And.left, h, h, h, h]

end Sys2Proof
end

section
/-! PROOFS. The command step on a word that is no legal command (60_exceptions.md R272–R274). -/

namespace Sys2Proof.Machine

/-- DRAW outside a bracket fails check 5 before its format checks (60_exceptions.md R273). -/
theorem illegalWord_of_drawOutside {s : State} {e : DecodeError}
    (he : e = .unsupportedSource .draw ∨ e = .unsupportedDestination .draw) (hf : s.inFrame = false) :
    illegalWord e s = bracketMissing := by
  rcases he with rfl | rfl <;> exact if_pos ⟨rfl, hf⟩

/-- Check 7, where check 5 does not come before it (R272). -/
theorem illegalWord_unsupportedSource {s : State} {o : Op} (h : ¬ (o = .draw ∧ s.inFrame = false)) :
    illegalWord (.unsupportedSource o) s = ⟨formatErrorCode o, 7, 0⟩ := if_neg h

/-- Check 8, where check 5 does not come before it (R272). -/
theorem illegalWord_unsupportedDestination {s : State} {o : Op} (h : ¬ (o = .draw ∧ s.inFrame = false)) :
    illegalWord (.unsupportedDestination o) s = ⟨formatErrorCode o, 8, 3⟩ := if_neg h

/-- A command step on such a word is error entry with its failing check. -/
theorem step_of_illegalWord {s : State} {e : DecodeError} (hx : s.phase = .exec) (hev : s.nextEvent = some .command)
    (hd : decode s.curCmd = .error e) :
    step s = .next (raiseFailure (illegalWord e s) { s with inputs := s.inputsAfter }) := by
  rw [step_eq, hev]
  show runCommand _ = _
  simp only [runCommand, hx, if_true, hd]
  rfl

end Sys2Proof.Machine
end

section
/-! PROOFS. The obligations of the encoding, each from the lemmas above. -/

namespace Sys2Proof.Proofs

open Machine

/-- Settles O1: each word is its command's own. -/
theorem decodeSampleWords : Obligations.DecodeSampleWords := by
  have sample (i : Instr) {w : Word} (h : w = encode i) : decode w = .ok i := by rw [h, decode_encode]
  exact ⟨sample .nop (by decide), sample .pixCcm (by decide), sample .ccmApplyArgb8888 (by decide),
    sample .gammaApplyBgr888 (by decide), sample .debayerGrbgBgr888 (by decide), sample .convertNv21 (by decide),
    sample .present (by decide), sample .drawUyvy (by decide), sample .endFrame (by decide)⟩

/-- Settles O2. -/
theorem decodeAndEncodeAgree : Obligations.DecodeAndEncodeAgree :=
  ⟨fun i _ => decode_encode i, fun _ _ => eq_encode_of_decode, fun _ => CmdFields.wellFormed_iff⟩

/-- Settles O5. -/
theorem illegalWordEntersFailed : Obligations.IllegalWordEntersFailed := by
  intro s e code check plane hx hev hd hcheck
  have hfail : illegalWord e s = ⟨code, check, plane⟩ := by
    rcases hcheck with ⟨rfl, h⟩ | ⟨rfl, h⟩ | ⟨rfl, h⟩ | ⟨rfl, h⟩ | ⟨he, hf, h⟩ | ⟨rfl | rfl, h⟩ | ⟨rfl | rfl, h⟩ |
      ⟨rfl | rfl | ⟨rfl, hf⟩, h⟩ | ⟨rfl | rfl | ⟨rfl, hf⟩, h⟩ <;> cases h
    iterate 4 rfl
    · exact illegalWord_of_drawOutside he hf
    iterate 2 exact illegalWord_unsupportedSource (by simp)
    iterate 2 exact illegalWord_unsupportedDestination (by simp)
    iterate 2 exact illegalWord_unsupportedSource (by simp)
    · exact illegalWord_unsupportedSource (by simp [hf])
    iterate 2 exact illegalWord_unsupportedDestination (by simp)
    · exact illegalWord_unsupportedDestination (by simp [hf])
  have hbusy : State.busy { s with inputs := s.inputsAfter } = true := by simp [State.busy, hx]
  rw [step_of_illegalWord hx hev hd, hfail, raiseFailure, raiseError_of_ne (by simp [hx]), State.enterFailed,
    runningOp_of_busy hbusy]
  rfl

/-- Settles O3: by the reserved byte, then the operation that OP names, then whether it has an image. -/
theorem decoderClassifiesEveryWord : Obligations.DecoderClassifiesEveryWord := by
  intro w op sfmt dfmt plain formats convertible byFormats
  obtain ⟨hop, hsfmt, hdfmt, hrsvd⟩ := ofWord_toNat w
  by_cases hr : (CmdFields.ofWord w).rsvd = 0
  · rw [if_neg (by rw [← hrsvd, hr]; decide)]
    cases hdec : decodeOp (CmdFields.ofWord w).op with
    | none =>
      have ne (o : Op) : op ≠ o.code.toNat := fun h =>
        decodeOp_eq_none.1 hdec o (BitVec.eq_of_toNat_eq (hop.trans h))
      have hplain : op ∉ plain := fun h => by
        obtain ⟨o, -, ho⟩ := List.mem_map.1 (show op ∈ Op.plain.map fun o => o.code.toNat from h)
        exact ne o ho.symm
      rw [if_neg hplain, if_neg (show op ≠ 0x10 from ne .ccmApply), if_neg (show op ≠ 0x12 from ne .gammaApply),
        if_neg (show op ≠ 0x20 from ne .debayer), if_neg (show op ≠ 0x30 from ne .convert),
        if_neg (show op ≠ 0x51 from ne .draw)]
      exact decodeFields_of_undefinedOp hr hdec
    | some o =>
      have hcode : op = o.code.toNat := by rw [← decodeOp_eq_some.1 hdec, hop]
      cases ho : selectPlain o with
      | some i =>
        have hmem : o ∈ Op.plain := selectPlain_isSome.1 (by simp [ho])
        have hplain : op ∈ plain := hcode ▸ List.mem_map_of_mem (f := fun o : Op => o.code.toNat) hmem
        rw [if_pos hplain]
        exact decodeFields_plain_toNat hr hdec ho hsfmt hdfmt
      | none =>
        have image {sources destinations : List Nat} (hs : sources = o.sources.map BitVec.toNat)
            (hd : destinations = (o.destinations (CmdFields.ofWord w).sfmt).map BitVec.toNat) :
            byFormats o sources destinations := by
          have h := decodeFields_image_toNat hr hdec ho hs hd
          rw [hsfmt, hdfmt] at h
          exact h
        rw [hcode]
        cases o
        case ccmApply => exact image rfl (congrArg (fun n => [n]) hsfmt.symm)
        case gammaApply => exact image rfl (congrArg (fun n => [n]) hsfmt.symm)
        case debayer => exact image rfl rfl
        case convert => exact image rfl rfl
        case draw => exact image rfl rfl
        all_goals cases ho
  · rw [if_pos (by rw [← hrsvd]; exact fun h => hr (BitVec.eq_of_toNat_eq h))]
    exact decodeFields_of_reserved hr

end Sys2Proof.Proofs
end

section
/-! PROOFS. The command step, and what it leaves when one of the checks 1–15 fails (40_command_cycle.md R122, R123). -/

namespace Sys2Proof.Machine

variable {s t : State}

/-- A step whose next event is the command step runs the accepted word. -/
theorem step_of_command (hev : s.nextEvent = some .command) :
    step s = runCommand { s with inputs := s.inputsAfter } := by
  rw [step_eq, hev]
  rfl

theorem runCommand_of_decode {i : Instr} (hx : s.phase = .exec) (hi : decode s.curCmd = .ok i) :
    runCommand s = exec i s := by simp [runCommand, hx, hi]

/-- A command step that ends in FAILED is the entry of a failed check, or the bus error of an image command. -/
theorem runCommand_failed (hx : s.phase = .exec) (h : runCommand s = .next t) (ht : t.phase = .failed) :
    (∃ f, t = raiseFailure f s) ∨ t.errCheck = 16 := by
  rcases runCommand_next h with ⟨hne, -⟩ | ⟨i, -, -, he⟩ | ⟨e, -, -, rfl⟩
  · exact absurd hx hne
  · rcases exec_next he with ⟨p, -, hp⟩ | ⟨v, b, rfl⟩ | ⟨v, rfl⟩ | ⟨f, -, rfl⟩ | ⟨-, -, rfl⟩
    · rcases executePlan_next hp with ⟨f, -, rfl⟩ | ⟨-, -, -, rfl⟩ | ⟨a, -, -, -, rfl⟩
      · exact .inl ⟨f, rfl⟩
      · cases ht
      · have hrunning : ((if p.usesLut then ensureLut s else s).stopStores p.stores).phase ≠ .failed := by
          cases p.usesLut <;> simp [hx]
        rw [raiseError_of_ne hrunning]
        exact .inr rfl
    · cases ht
    · cases ht
    · exact .inl ⟨f, rfl⟩
    · cases ht
  · exact .inl ⟨_, rfl⟩

/-- Error entry of a failed check in EXEC, with ERR_INFO.OP the running command's (60_exceptions.md R274). -/
theorem raiseFailure_of_exec (hx : s.phase = .exec) (f : Failure) :
    raiseFailure f s = { s with
      errCode := f.code, phase := .failed, errOp := BitVec.ofNat 8 s.curCmd.toNat, errCheck := f.check,
      errPlane := f.plane, errAddr := 0, dispReq := false, dispAddr := 0,
      irqStatus := s.irqStatus ||| irqError } := by
  rw [raiseFailure, raiseError_of_ne (by simp [hx]), State.enterFailed,
    runningOp_of_busy ((busy_iff s).2 (.inl hx))]

end Sys2Proof.Machine
end

section
/-! PROOFS. A host write to CMD (40_command_cycle.md R120, R121), and the words of OP 0 (R127). -/

namespace Sys2Proof.Machine

theorem writeOffset_cmd (s : State) (w : Word) : writeOffset 0x010 w s = .next (s.submit w) := rfl

/-- R120: a CMD write in IDLE is an acceptance. -/
theorem writeOffset_cmd_of_idle {s : State} (hx : s.phase = .idle) (w : Word) :
    writeOffset 0x010 w s = .next (s.accept w) := by rw [writeOffset_cmd, State.submit, if_pos hx]

/-- R121: a CMD write in any other phase is a rejection. -/
theorem writeOffset_cmd_of_ne {s : State} (hx : s.phase ≠ .idle) (w : Word) :
    writeOffset 0x010 w s = .next (s.raiseIrq irqRejected) := by rw [writeOffset_cmd, State.submit, if_neg hx]

/-- R127: NOP is its completion. -/
theorem exec_nop (s : State) : exec .nop s = .next (complete s) := rfl

/-- A word of OP 0 fails check 1, 3 or 4, or is NOP. -/
theorem decode_of_op_zero {w : Word} (hop : w.toNat % 256 = 0) :
    decode w = .error .reservedBits ∨ decode w = .error .illegalSource ∨ decode w = .error .illegalDestination ∨
      decode w = .ok .nop := by
  have hcode : (CmdFields.ofWord w).op = Op.nop.code := BitVec.eq_of_toNat_eq ((ofWord_toNat w).1.trans hop)
  by_cases hr : (CmdFields.ofWord w).rsvd = 0
  · rw [decode, decodeFields_of_plain hr (decodeOp_eq_some.2 hcode) rfl]
    split_ifs <;> simp
  · exact .inl (decodeFields_of_reserved hr)

end Sys2Proof.Machine
end

section
/-! PROOFS. The obligations of the command cycle, each from the lemmas above. -/

namespace Sys2Proof.Proofs

open Machine

/-- Settles O37: short of a bus error, a command step into FAILED is error entry and nothing else. -/
theorem checksPrecedeEffects : Obligations.ChecksPrecedeEffects := by
  intro s t hx hev hstep hfailed hcheck
  rw [step_of_command hev] at hstep
  have hexec : State.phase { s with inputs := s.inputsAfter } = .exec := hx
  obtain ⟨f, rfl⟩ := (runCommand_failed hexec hstep hfailed).resolve_right hcheck
  rw [raiseFailure_of_exec hexec]
  rfl

/-- Settles O4. -/
theorem stepRunsDecodedCommand : Obligations.StepRunsDecodedCommand := by
  intro s i hx hi _ hev
  rw [step_of_command hev]
  exact runCommand_of_decode hx hi

/-- Settles O24. -/
theorem commandAcceptance : Obligations.CommandAcceptance := fun _ w hx => writeOffset_cmd_of_idle hx w

/-- Settles O25: the three phases are those other than IDLE. -/
theorem commandRejection : Obligations.CommandRejection := by
  intro s w hx
  have hne : s.phase ≠ .idle := by
    intro hidle
    simp [hidle] at hx
  exact writeOffset_cmd_of_ne hne w

/-- Settles O40: the word 0 is NOP's only word. -/
theorem nopCompletes : Obligations.NopCompletes := by
  have hnop : encode .nop = 0 := by decide
  refine ⟨hnop ▸ decode_encode .nop, exec_nop, fun w hop hw => ?_,
    fun s hx => writeOffset_cmd_of_ne (by simp [hx]) 0⟩
  rcases decode_of_op_zero hop with h | h | h | h
  · simp [h]
  · simp [h]
  · simp [h]
  · exact absurd ((eq_encode_of_decode h).trans hnop) hw

end Sys2Proof.Proofs
end

section
/-! PROOFS. The Color Model's transforms as numbers (41_color_model.md R140–R145). -/

namespace Sys2Proof.Machine

/-- The shift by the integer 8 of `yuvToRgb` and `ccmRow` is the shift by the natural number. -/
theorem shiftRight_eight (v : Int) : v >>> (8 : Int) = v >>> (8 : Nat) := Int.shiftRight_natCast_right v 8

/-- `yuvToRgb` as numbers: the floor shift by 8 is the division by 256 (R140). -/
theorem yuvToRgb_toNat (y u v : Byte) :
    let c : Int := (y.toNat : Int) - 16
    let d : Int := (u.toNat : Int) - 128
    let e : Int := (v.toNat : Int) - 128
    ((yuvToRgb y u v).r.toNat : Int) = max 0 (min 255 ((298 * c + 409 * e + 128) / 256)) ∧
      ((yuvToRgb y u v).g.toNat : Int) = max 0 (min 255 ((298 * c - 100 * d - 208 * e + 128) / 256)) ∧
      ((yuvToRgb y u v).b.toNat : Int) = max 0 (min 255 ((298 * c + 516 * d + 128) / 256)) := by
  simp [yuvToRgb, clamp8_toNat, shiftRight_eight, Int.shiftRight_eq_div_pow]

/-- One output channel of the matrix as a number (R145). -/
theorem ccmRow_toNat (m0 m1 m2 : Half) (p : Rgb) :
    ((ccmRow m0 m1 m2 p).toNat : Int) =
      max 0 (min 255 ((m0.toInt * p.r.toNat + m1.toInt * p.g.toNat + m2.toInt * p.b.toNat + 128) / 256)) := by
  simp [ccmRow, clamp8_toNat, shiftRight_eight, Int.shiftRight_eq_div_pow]

/-- `packRgb565` as a number: the low 3 bits of r and b and the low 2 bits of g are dropped (R142). -/
theorem packRgb565_toNat (p : Rgb) :
    (packRgb565 p).toNat = 2048 * (p.r.toNat / 8) + 32 * (p.g.toNat / 4) + p.b.toNat / 8 := by
  have := p.r.isLt
  have := p.g.isLt
  have := p.b.isLt
  have hr : ((p.r >>> 3).setWidth 16 <<< 11).toNat = (p.r.toNat / 8) <<< 11 := by
    simp [Nat.shiftRight_eq_div_pow, Nat.shiftLeft_eq]
    omega
  have hg : ((p.g >>> 2).setWidth 16 <<< 5).toNat = (p.g.toNat / 4) <<< 5 := by
    simp [Nat.shiftRight_eq_div_pow, Nat.shiftLeft_eq]
    omega
  have hb : ((p.b >>> 3).setWidth 16).toNat = p.b.toNat / 8 := by
    simp [Nat.shiftRight_eq_div_pow]
    omega
  rw [packRgb565, BitVec.toNat_or, BitVec.toNat_or, hr, hg, hb, Nat.or_assoc,
    ← Nat.shiftLeft_add_eq_or_of_lt (show p.b.toNat / 8 < 2 ^ 5 by omega),
    ← Nat.shiftLeft_add_eq_or_of_lt (by rw [Nat.shiftLeft_eq]; omega), Nat.shiftLeft_eq, Nat.shiftLeft_eq]
  ring

/-- A field of `n` bits followed by the low bits `x` of a byte, as a number. -/
theorem setWidth_shiftLeft_or_toNat {n k : Nat} (field : BitVec n) {x : Byte} (hx : x.toNat < 2 ^ k) (hk : n + k = 8) :
    (field.setWidth 8 <<< k ||| x).toNat = 2 ^ k * field.toNat + x.toNat := by
  have hlt : field.toNat * 2 ^ k < 2 ^ 8 := by
    rw [← hk, Nat.pow_add]
    exact Nat.mul_lt_mul_of_pos_right field.isLt (Nat.two_pow_pos k)
  have hfield : (field.setWidth 8 <<< k).toNat = field.toNat <<< k := by
    rw [BitVec.toNat_shiftLeft, BitVec.toNat_setWidth_of_le (by omega), Nat.shiftLeft_eq, Nat.mod_eq_of_lt hlt]
  rw [BitVec.toNat_or, hfield, ← Nat.shiftLeft_add_eq_or_of_lt hx, Nat.shiftLeft_eq, Nat.mul_comm]

/-- `unpackRgb565` as numbers: each field is followed by the middle of what packing drops (R143). -/
theorem unpackRgb565_toNat (p : Half) :
    (unpackRgb565 p).r.toNat = 8 * (p.toNat / 2048) + 4 ∧ (unpackRgb565 p).g.toNat = 4 * (p.toNat / 32 % 64) + 2 ∧
      (unpackRgb565 p).b.toNat = 8 * (p.toNat % 32) + 4 := by
  have := p.isLt
  simp only [unpackRgb565, setWidth_shiftLeft_or_toNat _ (k := 3) (x := 4) (by decide) rfl,
    setWidth_shiftLeft_or_toNat _ (k := 2) (x := 2) (by decide) rfl, BitVec.extractLsb'_toNat,
    Nat.shiftRight_eq_div_pow]
  simp
  omega

/-- Packing after unpacking gives the word back (R144 (b)). -/
theorem packRgb565_unpackRgb565 (p : Half) : packRgb565 (unpackRgb565 p) = p := by
  obtain ⟨hr, hg, hb⟩ := unpackRgb565_toNat p
  apply BitVec.eq_of_toNat_eq
  rw [packRgb565_toNat, hr, hg, hb]
  omega

end Sys2Proof.Machine
end

section
/-! PROOFS. What the single-pixel commands and GAMMA_BUILD answer (41_color_model.md R160–R170). -/

namespace Sys2Proof.Machine

/-- A PIX_* command that answers `pixResult v` writes PIX_OUT and completes (R160). -/
theorem pixResult_eq (v : Word) (s : State) :
    pixResult v s = .next { s with pixOut := v, phase := .idle, irqStatus := s.irqStatus ||| 1 } := rfl

/-- GAMMA_BUILD completes with the table built (R170). -/
theorem exec_gammaBuild {s : State} (h : s.lutValid = true → s.lutRam = gammaTable) :
    exec .gammaBuild s = .next (complete s.buildLut) := by
  rw [← ensureLut_eq h]
  rfl

/-- PIX_GAMMA builds the table, then looks up the three channels in it (R165). -/
theorem exec_pixGamma {s : State} (h : s.lutValid = true → s.lutRam = gammaTable) :
    exec .pixGamma s = pixResult
      (pixWord (pixAlpha s.params.pixIn) (gammaApply gammaTable (pixChannels s.params.pixIn))) s.buildLut := by
  have htable : (ensureLut s).lutRam = gammaTable := by rw [ensureLut_eq h]; rfl
  rw [← ensureLut_eq h, ← htable]
  rfl

/-- The PIX_* word made of a word's own bytes is the word (R160). -/
theorem pixWord_pixChannels (x : Word) : pixWord (pixAlpha x) (pixChannels x) = x := by
  obtain ⟨hr, hg, hb, ha⟩ := pixChannels_toNat x
  apply BitVec.eq_of_toNat_eq
  rw [pixWord_toNat, hr, hg, hb, ha]
  omega

end Sys2Proof.Machine
end

section
/-! PROOFS. The gamma table against the transfer function over the reals (41_color_model.md R151). -/

namespace Sys2Proof.Machine

/-- The twelfth power of the transfer function's root is a polynomial: 12 / 2.4 = 5. -/
theorem rpow_transfer_pow {l : ℝ} (hl : 0 ≤ l) : (l ^ ((1 : ℝ) / 2.4)) ^ 12 = l ^ 5 := by
  rw [← Real.rpow_natCast, ← Real.rpow_mul hl, ← Real.rpow_natCast]
  norm_num

/-- The rounding interval of every entry but the first, as inequalities of natural numbers: with v the entry, the root
of R151 lies between (v - 1/2 + 255 · 0.055) / (255 · 1.055) = (40 v + 541) / 10761 and (40 v + 581) / 10761; here all
three are raised to the twelfth power. -/
theorem gammaTable_brackets : ∀ i < 256, 0 < i →
    (40 * (gammaTable.getD i 0).toNat + 541) ^ 12 * 255 ^ 5 < i ^ 5 * 10761 ^ 12 ∧
      i ^ 5 * 10761 ^ 12 < (40 * (gammaTable.getD i 0).toNat + 581) ^ 12 * 255 ^ 5 := by
  decide +kernel

/-- The twelfth root of (i / n) ^ 5 lies between a / c and b / c when their twelfth powers lie around (i / n) ^ 5. -/
theorem between_of_pow_twelve {x : ℝ} {a b c i n : ℕ} (hx : 0 ≤ x) (hpow : x ^ 12 = ((i : ℝ) / n) ^ 5) (hc : 0 < c)
    (hn : 0 < n) (hlo : a ^ 12 * n ^ 5 < i ^ 5 * c ^ 12) (hhi : i ^ 5 * c ^ 12 < b ^ 12 * n ^ 5) :
    (a : ℝ) < c * x ∧ c * x < b := by
  have hc' : (0 : ℝ) < c := by exact_mod_cast hc
  have hn' : (0 : ℝ) < n := by exact_mod_cast hn
  have hcx : (c * x) ^ 12 * (n : ℝ) ^ 5 = i ^ 5 * c ^ 12 := by
    rw [mul_pow, hpow]
    field_simp
  have hn5 : (0 : ℝ) < (n : ℝ) ^ 5 := by positivity
  constructor
  · refine lt_of_pow_lt_pow_left₀ 12 (by positivity) (lt_of_mul_lt_mul_right ?_ hn5.le)
    rw [hcx]
    exact_mod_cast hlo
  · refine lt_of_pow_lt_pow_left₀ 12 (by positivity) (lt_of_mul_lt_mul_right ?_ hn5.le)
    rw [hcx]
    exact_mod_cast hhi

end Sys2Proof.Machine
end

section
/-! PROOFS. A same-size image command that is ready: its checks pass, it meets no overlap and no bus error, and it
writes its image (41_color_model.md R166, R171; 42_demosaic.md R186). -/

namespace Sys2Proof.Machine

/-- Every read access of an RGB-family pixel lies in the pixel's bytes (20_memory.md R85). -/
theorem RgbFormat.reads_inside {f : RgbFormat} {a : Nat} {x : Access} (h : x ∈ f.reads a) :
    a ≤ x.addr ∧ x.addr + x.size ≤ a + f.bpp := by
  have aligned {n : Nat} (h : x ∈ alignedAccess a n 0) : a ≤ x.addr ∧ x.addr + x.size ≤ a + n := by
    unfold alignedAccess at h
    split at h
    · rw [List.mem_singleton.1 h]
      exact ⟨le_rfl, le_rfl⟩
    · obtain ⟨k, hk, rfl⟩ := List.mem_map.1 h
      have := List.mem_range.1 hk
      exact ⟨Nat.le_add_right _ _, by dsimp only; omega⟩
  cases f with
  | rgb565 => exact aligned h
  | argb8888 => exact aligned h
  | bgr888 =>
    simp only [RgbFormat.reads, List.mem_cons, List.not_mem_nil, or_false] at h
    rcases h with rfl | rfl | rfl <;> simp [RgbFormat.bpp]

/-- Every byte of a pixel of source plane 0 lies in the plane's range (20_memory.md R74, R83). -/
theorem srcAddr_inside {p : Params} {bpp col i : Nat} (hb : 0 < bpp) (hcol : col < p.srcW) (hi : i < p.srcH) :
    (p.srcPlane0 p.srcH (bpp * p.srcW)).base ≤ p.srcAddr bpp col i ∧
      p.srcAddr bpp col i + bpp ≤ (p.srcPlane0 p.srcH (bpp * p.srcW)).last + 1 := by
  have hm : bpp * (col + 1) ≤ bpp * p.srcW := Nat.mul_le_mul_left _ hcol
  rw [Nat.mul_add, Nat.mul_one] at hm
  have hlast := (p.srcPlane0 p.srcH (bpp * p.srcW)).addr_le_last (row := i) (off := bpp * col + (bpp - 1)) hi
    (by simp only [Params.srcPlane0]; omega)
  simp only [Params.srcPlane0, Params.srcAddr] at hlast ⊢
  exact ⟨by rw [Nat.add_assoc]; exact Nat.le_add_right _ _, by omega⟩

section Draws

variable {p : Plan} {f : RgbFormat} {s : State} {bytes : Nat × Nat → List Byte}

/-- No store of an image gets a bus error when the destination's range gives none. -/
theorem Plan.Draws.stores_quiet {d : Surface} {L : List (Nat × Nat)} {pos : Nat × Nat → Nat × Nat}
    (h : p.Draws f d L pos bytes) (hq : (d.plane f.bpp).quiet s) {st : Store} (hst : st ∈ p.stores) :
    s.busErrorOn st.access = false := by
  obtain ⟨hlo, hhi⟩ := h.inDest hst
  rw [h.dest] at hlo hhi
  exact busErrorOn_of_quiet hq hlo hhi

/-- All stores of a SRC_W × SRC_H image at the destination descriptor performed: the image is written. -/
theorem Plan.Draws.imageWritten
    (h : p.Draws f s.params.dstSurface (pixels s.params.srcW s.params.srcH) id bytes) (hm : s.mem.wf = true) :
    ImageWritten s f.bpp (fun col i => bytes (col, i)) (applyStores p.stores s.mem) := by
  refine ⟨applyStores_wf _ hm h.inSpace, fun col i hcol hi => ?_, fun a ha => ?_⟩
  · have hc : (col, i) ∈ pixels s.params.srcW s.params.srcH := mem_pixels.2 ⟨hcol, hi⟩
    refine List.ext_getElem (by rw [rawBytes_length, h.length _ hc]) fun k _ hk => ?_
    simp only [rawBytes, List.getElem_map, List.getElem_range]
    exact h.read hm hc hk
  · refine h.read_other s.mem fun c hc k hk => ?_
    obtain ⟨hcol, hi⟩ := mem_pixels.1 hc
    exact ha c.1 c.2 k hcol hi hk

end Draws

section Ready

variable {f : RgbFormat} {s : State} {k : Plane} {bpp : Nat}

/-- Checks 9–15 of a ready same-size command pass. -/
theorem SameSizeReady.passes (h : SameSizeReady k bpp s) :
    firstFailure (geometryChecks s.params [k] s.params.dstSurface bpp false true) = none := by
  obtain ⟨hw, hh⟩ := h.sourceSize
  obtain ⟨-, -, hpitch, hlast, -⟩ := h.source
  obtain ⟨-, -, hdpitch, hdlast, -⟩ := h.target
  have hsame : s.params.dstSurface.width = s.params.srcW ∧ s.params.dstSurface.height = s.params.srcH := h.sameSize
  exact geometryChecks_pass.2 ⟨⟨hw.ne', hh.ne'⟩, ⟨hsame.1 ▸ hw.ne', hsame.2 ▸ hh.ne'⟩, rfl, fun _ => hsame,
    by simpa using hpitch, hdpitch, by simpa using hlast, hdlast⟩

variable {usesLut : Bool} {bytesAt : Nat → List Byte}

/-- CCM_APPLY or GAMMA_APPLY with disjoint planes, or exactly in place, is not refused (20_memory.md R94). -/
theorem correctionPlan_no_overlap
    (h : DisjointOrInPlace (s.params.srcPlane0 s.params.srcH (f.bpp * s.params.srcW)) f.bpp s) :
    (correctionPlan f usesLut bytesAt s).overlaps = false := by
  rcases h with hdisjoint | ⟨hbase, hpitch⟩
  · simp [Plan.overlaps, correctionPlan, hdisjoint]
  · simp [Plan.overlaps, correctionPlan, hbase, hpitch]

/-- A ready CCM_APPLY or GAMMA_APPLY completes; each destination pixel holds what `bytesAt` gives for its source. -/
theorem executePlan_correctionPlan (hlen : ∀ a, (bytesAt a).length = f.bpp)
    (h : SameSizeReady (s.params.srcPlane0 s.params.srcH (f.bpp * s.params.srcW)) f.bpp s)
    (hd : DisjointOrInPlace (s.params.srcPlane0 s.params.srcH (f.bpp * s.params.srcW)) f.bpp s) :
    ∃ m, executePlan (correctionPlan f usesLut bytesAt s) s =
        .next ((if usesLut then ensureLut s else s).doneWith m) ∧
      ImageWritten s f.bpp (fun col i => bytesAt (s.params.srcAddr f.bpp col i)) m := by
  have hpass : (correctionPlan f usesLut bytesAt s).failure = none := h.passes
  have hdraws := correctionPlan_draws hlen hpass
  obtain ⟨-, -, -, -, hsource⟩ := h.source
  obtain ⟨-, -, -, -, htarget⟩ := h.target
  have hbus : (correctionPlan f usesLut bytesAt s).busFault s = none := by
    refine busFault_eq_none (fun a ha => ?_) (.inl rfl)
    rcases List.mem_append.1 ha with hread | hwrite
    · obtain ⟨c, hc, hread⟩ := List.mem_flatMap.1 hread
      obtain ⟨hcol, hi⟩ := mem_pixels.1 hc
      obtain ⟨hlo, hhi⟩ := srcAddr_inside f.bpp_pos hcol hi
      obtain ⟨hlo', hhi'⟩ := f.reads_inside hread
      exact busErrorOn_of_quiet hsource (hlo.trans hlo') (hhi'.trans hhi)
    · obtain ⟨st, hst, rfl⟩ := List.mem_map.1 hwrite
      exact hdraws.stores_quiet htarget hst
  exact ⟨_, executePlan_done hpass (correctionPlan_no_overlap hd) hbus, hdraws.imageWritten h.memory⟩

/-- A ready CCM_APPLY completes with every pixel corrected (41_color_model.md R166). -/
theorem executePlan_ccmPlan
    (h : SameSizeReady (s.params.srcPlane0 s.params.srcH (f.bpp * s.params.srcW)) f.bpp s)
    (hd : DisjointOrInPlace (s.params.srcPlane0 s.params.srcH (f.bpp * s.params.srcW)) f.bpp s) :
    ∃ m, executePlan (ccmPlan f s) s = .next (s.doneWith m) ∧
      ImageWritten s f.bpp (fun col i => ccmPixelBytes f s.params s.mem (s.params.srcAddr f.bpp col i)) m :=
  executePlan_correctionPlan (fun _ => ccmPixelBytes_length _ _ _ _) h hd

/-- A ready GAMMA_APPLY completes with the table built and every pixel looked up in it (R171). -/
theorem executePlan_gammaPlan (hlut : s.lutValid = true → s.lutRam = gammaTable)
    (h : SameSizeReady (s.params.srcPlane0 s.params.srcH (f.bpp * s.params.srcW)) f.bpp s)
    (hd : DisjointOrInPlace (s.params.srcPlane0 s.params.srcH (f.bpp * s.params.srcW)) f.bpp s) :
    ∃ m, executePlan (gammaPlan f s) s = .next (s.buildLut.doneWith m) ∧
      ImageWritten s f.bpp (fun col i => gammaPixelBytes f gammaTable s.mem (s.params.srcAddr f.bpp col i)) m := by
  have hdone := executePlan_correctionPlan (usesLut := true) (bytesAt := gammaPixelBytes f (ensureLut s).lutRam s.mem)
    (fun _ => gammaPixelBytes_length _ _ _ _) h hd
  rw [ensureLut_eq hlut] at hdone
  rw [gammaPlan, ensureLut_eq hlut]
  exact hdone

end Ready

/-- CCM_APPLY's pixel with the matrix absent: the source bytes (R166). -/
theorem ccmPixelBytes_of_absent {p : Params} (h : p.ccmEn = false) (f : RgbFormat) (m : Memory) (a : Nat) :
    ccmPixelBytes f p m a = rawBytes m a f.bpp := by simp [ccmPixelBytes, h]

/-- CCM_APPLY's pixel with the matrix present: the corrected pixel, its alpha carried through (R166). -/
theorem ccmPixelBytes_of_present {p : Params} (h : p.ccmEn = true) (f : RgbFormat) (m : Memory) (a : Nat) :
    ccmPixelBytes f p m a = writeRgb f (ccmApply p.ccm (readRgb f m a).1) (readRgb f m a).2 := by
  simp [ccmPixelBytes, h]

end Sys2Proof.Machine
end

section
/-! PROOFS. The obligations of the Color Model, each from the lemmas above. -/

namespace Sys2Proof.Proofs

open Machine

/-- Settles O41: PIX_IN's three low bytes are the y, u and v of the transform. -/
theorem pixYuv2rgbResult : Obligations.PixYuv2rgbResult := by
  refine ⟨yuvToRgb_toNat, decode_encode .pixYuv2rgb, fun s => ⟨_, pixResult_eq _ s, ?_⟩⟩
  obtain ⟨hy, hu, hv, -⟩ := pixChannels_toNat s.params.pixIn
  obtain ⟨hr, hg, hb⟩ := yuvToRgb_toNat (pixChannels s.params.pixIn).r (pixChannels s.params.pixIn).g
    (pixChannels s.params.pixIn).b
  simp only [hy, hu, hv] at hr hg hb
  dsimp only
  rw [pixWord_toNat, ← hr, ← hg, ← hb]
  simp

/-- Settles O42: the two conversions as numbers, then PIX_OUT's bytes from them. -/
theorem pixPackAndUnpackResult : Obligations.PixPackAndUnpackResult := by
  refine ⟨packRgb565_toNat, unpackRgb565_toNat, decode_encode .pixPack565, decode_encode .pixUnpack565, fun s =>
    ⟨⟨_, pixResult_eq _ s, ?_⟩, ⟨_, pixResult_eq _ s, ?_⟩⟩⟩
  · obtain ⟨hr, hg, hb, -⟩ := pixChannels_toNat s.params.pixIn
    rw [BitVec.toNat_setWidth_of_le (by decide), packRgb565_toNat, hr, hg, hb]
  · obtain ⟨hr, hg, hb⟩ := unpackRgb565_toNat (s.params.pixIn.extractLsb' 0 16)
    rw [pixWord_toNat, hr, hg, hb]
    simp
    omega

/-- Settles O43: both conversions as numbers leave linear arithmetic on each channel. -/
theorem packUnpackRoundTrip : Obligations.PackUnpackRoundTrip := by
  refine ⟨fun p => ?_, packRgb565_unpackRgb565⟩
  obtain ⟨hr, hg, hb⟩ := unpackRgb565_toNat (packRgb565 p)
  rw [packRgb565_toNat] at hr hg hb
  have := p.r.isLt
  have := p.g.isLt
  have := p.b.isLt
  dsimp only
  omega

/-- Settles O44: without a matrix PIX_IN's bytes are put together again; with one each channel is its row. -/
theorem pixCcmResult : Obligations.PixCcmResult := by
  refine ⟨decode_encode .pixCcm, fun s => ⟨_, pixResult_eq _ s, fun hen => ?_, fun hen => ?_⟩⟩
  · rw [ccmOrId, hen]
    exact pixWord_pixChannels _
  · obtain ⟨hr, hg, hb, ha⟩ := pixChannels_toNat s.params.pixIn
    rw [ccmOrId, if_pos hen, pixWord_toNat, ha]
    simp only [ccmApply, Nat.cast_add, Nat.cast_mul, ccmRow_toNat, hr, hg, hb, Nat.cast_ofNat]

/-- Settles O45: under the invariant EnsureLUT always leaves the table, so the lookup is in the table itself. -/
theorem gammaBuildAndPixGamma : Obligations.GammaBuildAndPixGamma := by
  refine ⟨decode_encode .gammaBuild, decode_encode .pixGamma, fun s hlut =>
    ⟨by decide, by decide, exec_gammaBuild hlut, _, exec_pixGamma hlut, ?_⟩⟩
  obtain ⟨hr, hg, hb, ha⟩ := pixChannels_toNat s.params.pixIn
  simp only [pixWord_toNat, gammaApply, lutEntry, hr, hg, hb, ha]

/-- Settles O46: entry 0 is exact; every other sample is on the power branch, where the bounds of the rounding interval
are compared after raising to the twelfth power. -/
theorem gammaTableIsSrgb : Obligations.GammaTableIsSrgb := by
  refine ⟨gammaTable_length, fun i hi => ?_⟩
  rcases Nat.eq_zero_or_pos i with rfl | hpos
  · have hentry : (gammaTable.getD 0 0).toNat = 0 := by decide
    dsimp only
    rw [hentry]
    norm_num
  · have hi1 : (1 : ℝ) ≤ i := by exact_mod_cast hpos
    have hlinear : ¬ (i : ℝ) / 255 ≤ 0.0031308 := by
      rw [not_le, lt_div_iff₀ (by norm_num)]
      norm_num
      linarith
    have hl : (0 : ℝ) ≤ (i : ℝ) / 255 := by positivity
    obtain ⟨hlo, hhi⟩ := gammaTable_brackets i hi hpos
    generalize (gammaTable.getD i 0).toNat = v at hlo hhi ⊢
    obtain ⟨h1, h2⟩ := between_of_pow_twelve (n := 255) (Real.rpow_nonneg hl _) (by exact_mod_cast rpow_transfer_pow hl)
      (by norm_num) (by norm_num) hlo hhi
    dsimp only
    rw [if_neg hlinear, abs_lt]
    push_cast at h1 h2
    constructor <;> linarith

/-- Settles O47: a ready CCM_APPLY whose pixel bytes are the source bytes, for each of the three formats. -/
theorem ccmApplyAbsentCopies : Obligations.CcmApplyAbsentCopies := by
  intro q s hq bpp k hen hready hplace
  have hdone := executePlan_ccmPlan hready hplace
  simp only [ccmPixelBytes_of_absent hen] at hdone
  simp only [List.mem_cons, List.not_mem_nil, or_false] at hq
  rcases hq with rfl | rfl | rfl
  · exact hdone
  · exact hdone
  · exact hdone

/-- Settles O48: a ready CCM_APPLY whose pixel bytes are those of the corrected pixel, for each format. -/
theorem ccmApplyCorrects : Obligations.CcmApplyCorrects := by
  intro s hen
  have hdone (f : RgbFormat) := executePlan_ccmPlan (f := f) (s := s)
  simp only [ccmPixelBytes_of_present hen] at hdone
  exact ⟨fun ⟨h, hd⟩ => hdone .rgb565 h hd, fun ⟨h, hd⟩ => hdone .bgr888 h hd, fun ⟨h, hd⟩ => hdone .argb8888 h hd⟩

/-- Settles O49: a ready GAMMA_APPLY, for each format. -/
theorem gammaApplyLooksUp : Obligations.GammaApplyLooksUp := by
  intro s hlut
  exact ⟨fun ⟨h, hd⟩ => executePlan_gammaPlan (f := .rgb565) hlut h hd,
    fun ⟨h, hd⟩ => executePlan_gammaPlan (f := .bgr888) hlut h hd,
    fun ⟨h, hd⟩ => executePlan_gammaPlan (f := .argb8888) hlut h hd⟩

end Sys2Proof.Proofs
end

section
/-! PROOFS. The demosaic's site colours, and a ready DEBAYER: it completes and writes the demosaiced image
(42_demosaic.md R181–R194). -/

namespace Sys2Proof.Machine

/-- The colour of a site is the pattern's letter at the parities of its coordinates (R181). -/
theorem BayerPattern.color_eq_letter (p : BayerPattern) (a b : Nat) :
    p.color a b =
      [p.letters.1, p.letters.2.1, p.letters.2.2.1, p.letters.2.2.2].getD (b % 2 * 2 + a % 2) .green := by
  unfold BayerPattern.color
  rcases Nat.mod_two_eq_zero_or_one b with hb | hb
  · rcases Nat.mod_two_eq_zero_or_one a with ha | ha <;> simp [ha, hb]
  · rcases Nat.mod_two_eq_zero_or_one a with ha | ha <;> simp [ha, hb]

/-- A ready DEBAYER, whose mosaic has even sides, completes with every pixel demosaiced (R186). -/
theorem executePlan_debayerPlan {pattern : BayerPattern} {f : RgbFormat} {s : State} (hw : s.params.srcW % 2 = 0)
    (hh : s.params.srcH % 2 = 0) (h : SameSizeReady (s.params.srcPlane0 s.params.srcH s.params.srcW) f.bpp s)
    (hd : (s.params.srcPlane0 s.params.srcH s.params.srcW).meets (s.params.dstSurface.plane f.bpp) = false) :
    ∃ m, executePlan (debayerPlan pattern f s) s = .next (s.doneWith m) ∧
      ImageWritten s f.bpp
        (fun col i => writeRgb f
          (demosaic pattern (s.params.rawSample s.mem) s.params.srcW s.params.srcH col i) 0) m := by
  have hpass : (debayerPlan pattern f s).failure = none := by
    simpa [debayerPlan, hw, hh] using h.passes
  have hoverlap : (debayerPlan pattern f s).overlaps = false := by simp [Plan.overlaps, debayerPlan, hd]
  have hdraws := debayerPlan_draws hpass
  obtain ⟨-, -, -, -, hsource⟩ := h.source
  obtain ⟨-, -, -, -, htarget⟩ := h.target
  have hbus : (debayerPlan pattern f s).busFault s = none := by
    refine busFault_eq_none (fun a ha => ?_) (.inl rfl)
    rcases List.mem_append.1 ha with hread | hwrite
    · obtain ⟨c, hc, rfl⟩ := List.mem_map.1 hread
      obtain ⟨hcol, hi⟩ := mem_pixels.1 hc
      have hinside := srcAddr_inside Nat.one_pos hcol hi
      rw [Nat.one_mul] at hinside
      exact busErrorOn_of_quiet hsource hinside.1 hinside.2
    · obtain ⟨st, hst, rfl⟩ := List.mem_map.1 hwrite
      exact hdraws.stores_quiet htarget hst
  exact ⟨_, executePlan_done hpass hoverlap hbus, hdraws.imageWritten h.memory⟩

/-- The raw sample of a site at its address: one byte per sample (R180). -/
theorem rawSample_eq (p : Params) (m : Memory) :
    p.rawSample m = fun x y => m.read (p.srcBase0.toNat + y * p.srcPitch0.toNat + x) := by
  funext x y
  rw [Params.rawSample, Params.srcAddr, Nat.one_mul]

end Sys2Proof.Machine
end

section
/-! PROOFS. The obligations of the demosaic, each from the lemmas above. -/

namespace Sys2Proof.Proofs

open Machine

/-- Settles O50: the mirrored neighbours are the statement's west, east, north and south, and the site's colour selects
the averages. -/
theorem demosaicSites : Obligations.DemosaicSites := by
  intro q raw w h x y hq hw hh hx hy
  have hcolor (a b : Nat) : q.2.getD (b % 2 * 2 + a % 2) .green = q.1.color a b := by
    rw [BayerPattern.color_eq_letter]
    simp only [List.mem_cons, List.not_mem_nil, or_false] at hq
    rcases hq with rfl | rfl | rfl | rfl <;> rfl
  obtain ⟨hwest, hcolumn, heast⟩ := mirror_neighbours hw hx
  obtain ⟨hnorth, hrow, hsouth⟩ := mirror_neighbours hh hy
  simp only [hcolor, demosaic, hwest, hcolumn, heast, hnorth, hrow, hsouth]
  refine ⟨fun hred => ?_, fun hblue => ?_, fun hgreen hnext => ?_, fun hgreen hnext => ?_⟩
  · simp [hred, avg4_toNat]
  · simp [hblue, avg4_toNat]
  · simp [hgreen, hnext, avg2_toNat]
  · simp [hgreen, hnext, avg2_toNat]

/-- Settles O51: a ready DEBAYER of each pattern, in each of the two output formats. -/
theorem debayerWritesDemosaic : Obligations.DebayerWritesDemosaic := by
  intro q s hq p k pixel hw hh
  have hdone (f : RgbFormat) := executePlan_debayerPlan (pattern := q.2.2) (f := f) hw hh
  simp only [rawSample_eq] at hdone
  simp only [List.mem_cons, List.not_mem_nil, or_false] at hq
  rcases hq with rfl | rfl | rfl | rfl <;> exact ⟨hdone .bgr888, hdone .rgb565⟩

end Sys2Proof.Proofs
end

section
/-! PROOFS. A ready CONVERT or DRAW: its accesses lie in its planes, it completes, and it writes the pixels that land
(43_format_converter.md R200–R213, 45_compositor.md R251). -/

namespace Sys2Proof.Machine

/-- The access lies in the plane's range (20_memory.md R83). -/
def Plane.encloses (k : Plane) (x : Access) : Prop := k.base ≤ x.addr ∧ x.addr + x.size ≤ k.last + 1

/-- A one-byte sample at an offset of one of the plane's rows (R74). -/
theorem Plane.encloses_sample {k : Plane} {row off : Nat} (hrow : row < k.rows) (hoff : off < k.rowBytes)
    (number : BitVec 2) : k.encloses ⟨k.base + row * k.pitch + off, 1, number⟩ :=
  ⟨by dsimp only; omega, Nat.succ_le_succ (Plane.addr_le_last hrow hoff)⟩

/-- Sample k of a group of samples that begins at an offset of the row (R80, R81). -/
theorem Plane.encloses_group {p : Plane} {row off k : Nat} (hrow : row < p.rows) (hoff : off + k < p.rowBytes)
    (number : BitVec 2) : p.encloses ⟨p.base + row * p.pitch + off + k, 1, number⟩ := by
  rw [Nat.add_assoc _ off]
  exact Plane.encloses_sample hrow hoff number

/-- The reads of an RGB pixel of source plane 0. -/
theorem srcPlane0_encloses {f : RgbFormat} {p : Params} {col i : Nat} (hcol : col < p.srcW) (hi : i < p.srcH) :
    ∀ x ∈ f.reads (p.srcAddr f.bpp col i), (p.srcPlane0 p.srcH (f.bpp * p.srcW)).encloses x := by
  intro x hx
  obtain ⟨hlo, hhi⟩ := srcAddr_inside f.bpp_pos hcol hi
  obtain ⟨hlo', hhi'⟩ := f.reads_inside hx
  exact ⟨hlo.trans hlo', hhi'.trans hhi⟩

/-- Every read of a source pixel lies in one of the format's planes. Where chroma is subsampled the dimension is even
(43_format_converter.md R217), so that the last column's and the last row's chroma samples are in the plane too. -/
theorem StreamFormat.reads_enclosed {f : StreamFormat} {p : Params} {col i : Nat}
    (heven : f.oddSize p.srcW p.srcH = false) (hcol : col < p.srcW) (hi : i < p.srcH) :
    ∀ x ∈ f.reads p col i, ∃ k ∈ f.planes p, k.encloses x := by
  have luma : (p.srcPlane0 p.srcH p.srcW).encloses ⟨p.srcBase0.toNat + i * p.srcPitch0.toNat + col, 1, 0⟩ :=
    Plane.encloses_sample hi hcol 0
  have halved {n w : Nat} (hw : w % 2 ≠ 1) (hn : n < w) : n / 2 < w / 2 := by omega
  have paired {k : Nat} (hw : p.srcW % 2 ≠ 1) (hk : k < 2) : 2 * (col / 2) + k < p.srcW := by omega
  have packed {k : Nat} (hw : p.srcW % 2 ≠ 1) (hk : k < 4) : 4 * (col / 2) + k < 2 * p.srcW := by omega
  cases f
  case rgb565 => exact fun x hx => ⟨_, List.mem_singleton_self _, srcPlane0_encloses (f := .rgb565) hcol hi x hx⟩
  case bgr888 => exact fun x hx => ⟨_, List.mem_singleton_self _, srcPlane0_encloses (f := .bgr888) hcol hi x hx⟩
  all_goals
    simp only [oddSize, Bool.or_eq_false_iff, beq_eq_false_iff_ne] at heven
    simp only [reads, samples, planes, List.mem_cons, List.not_mem_nil, or_false, forall_eq_or_imp, forall_eq,
      exists_eq_or_imp, exists_eq_left]
  case i420 =>
    obtain ⟨hw, hh⟩ := heven
    have hrow := halved hh hi
    have hoff := halved hw hcol
    exact ⟨.inl luma, .inr (.inl (Plane.encloses_sample hrow hoff 1)),
      .inr (.inr (Plane.encloses_sample hrow hoff 2))⟩
  case yv12 =>
    obtain ⟨hw, hh⟩ := heven
    have hrow := halved hh hi
    have hoff := halved hw hcol
    exact ⟨.inl luma, .inr (.inr (Plane.encloses_sample hrow hoff 2)),
      .inr (.inl (Plane.encloses_sample hrow hoff 1))⟩
  case i422 =>
    have hoff := halved heven hcol
    exact ⟨.inl luma, .inr (.inl (Plane.encloses_sample hi hoff 1)), .inr (.inr (Plane.encloses_sample hi hoff 2))⟩
  case i444 =>
    exact ⟨.inl luma, .inr (.inl (Plane.encloses_sample hi hcol 1)), .inr (.inr (Plane.encloses_sample hi hcol 2))⟩
  case i400 => exact luma
  case nv12 =>
    obtain ⟨hw, hh⟩ := heven
    have hrow := halved hh hi
    exact ⟨.inl luma, .inr (Plane.encloses_group (k := 0) hrow (paired hw (by decide)) 1),
      .inr (Plane.encloses_group hrow (paired hw (by decide)) 1)⟩
  case nv21 =>
    obtain ⟨hw, hh⟩ := heven
    have hrow := halved hh hi
    exact ⟨.inl luma, .inr (Plane.encloses_group hrow (paired hw (by decide)) 1),
      .inr (Plane.encloses_group (k := 0) hrow (paired hw (by decide)) 1)⟩
  case yuy2 =>
    exact ⟨Plane.encloses_group hi (packed heven (by omega)) 0, Plane.encloses_group hi (packed heven (by decide)) 0,
      Plane.encloses_group hi (packed heven (by decide)) 0⟩
  case uyvy =>
    rw [Nat.add_assoc _ 1]
    exact ⟨Plane.encloses_group hi (packed heven (by omega)) 0,
      Plane.encloses_group (k := 0) hi (packed heven (by decide)) 0,
      Plane.encloses_group hi (packed heven (by decide)) 0⟩

/-- A number read little-endian from the bytes that a little-endian write of `v` stores. -/
theorem Memory.readLE_of_leBytes {m : Memory} {a n v : Nat}
    (h : ∀ k (hk : k < (leBytes v n).length), m.read (a + k) = (leBytes v n)[k]) : m.readLE a n = v % 256 ^ n := by
  induction n generalizing a v with
  | zero => simp [Memory.readLE, Nat.mod_one]
  | succ n ih =>
    have hlow : m.read a = BitVec.ofNat 8 v := h 0 (by simp)
    have hhigh : m.readLE (a + 1) n = v / 256 % 256 ^ n := ih fun k hk => by
      rw [Nat.add_assoc, Nat.add_comm 1 k]
      exact h (k + 1) (Nat.succ_lt_succ hk)
    rw [Memory.readLE, hlow, hhigh, BitVec.toNat_ofNat, Nat.pow_succ' (m := 256), Nat.mod_mul (a := 256)]

/-- All stores of the pixels that land in `dst` performed: the RGB565 words are written (R200, R202). -/
theorem Plan.Draws.streamWritten {p : Plan} {s : State} {dst : Surface} {value : Nat → Nat → Half}
    (h : p.Draws .rgb565 dst (clippedPixels s.params dst) (fun c => (s.params.dstX + c.1, s.params.dstY + c.2))
      (fun c => leBytes (value c.1 c.2).toNat 2)) (hm : s.mem.wf = true) :
    StreamWritten s dst value (applyStores p.stores s.mem) := by
  refine ⟨applyStores_wf _ hm h.inSpace, ?_, fun a ha => ?_⟩
  · rintro col i ⟨hcol, hi, hx, hy⟩
    have hc : (col, i) ∈ clippedPixels s.params dst := mem_clippedPixels.2 ⟨⟨hcol, hi⟩, hx, hy⟩
    exact (Memory.readLE_of_leBytes fun k hk => h.read hm hc hk).trans (Nat.mod_eq_of_lt (value col i).isLt)
  · refine h.read_other s.mem fun c hc k hk => ?_
    obtain ⟨⟨hcol, hi⟩, hx, hy⟩ := mem_clippedPixels.1 hc
    obtain ⟨hlow, hhigh⟩ := ha c.1 c.2 ⟨hcol, hi, hx, hy⟩
    simp only [RgbFormat.bpp] at hk ⊢
    omega

/-- A ready CONVERT or DRAW meets no bus error (60_exceptions.md R276). -/
theorem StreamReady.no_busFault {f : StreamFormat} {s : State} {dst : Surface} {sequence : List (Bool × Failure)}
    (h : StreamReady f s dst) (hseq : firstFailure sequence = none) :
    (streamPlan f dst sequence s).busFault s = none := by
  refine busFault_eq_none (fun a ha => ?_) (.inr h.sources_quiet)
  rcases List.mem_append.1 ha with hread | hwrite
  · obtain ⟨c, hc, hread⟩ := List.mem_flatMap.1 hread
    obtain ⟨⟨hcol, hi⟩, -⟩ := mem_clippedPixels.1 hc
    obtain ⟨k, hk, hlo, hhi⟩ := StreamFormat.reads_enclosed h.evenSize hcol hi a hread
    obtain ⟨⟨-, -, -, -, hquiet⟩, -⟩ := h.sources k hk
    exact busErrorOn_of_quiet hquiet hlo hhi
  · obtain ⟨st, hst, rfl⟩ := List.mem_map.1 hwrite
    obtain ⟨-, -, -, -, hquiet⟩ := h.target
    exact (streamPlan_draws (h.passes hseq)).stores_quiet hquiet hst

/-- A ready CONVERT or DRAW completes, and each source pixel that lands in `dst` is written there as its RGB565 word. -/
theorem StreamReady.writes {f : StreamFormat} {s : State} {dst : Surface} {sequence : List (Bool × Failure)}
    (h : StreamReady f s dst) (hseq : firstFailure sequence = none) :
    ∃ m, executePlan (streamPlan f dst sequence s) s = .next (s.doneWith m) ∧
      StreamWritten s dst (f.pixel s.params s.mem) m :=
  ⟨_, executePlan_done (h.passes hseq) h.no_overlap (h.no_busFault hseq),
    (streamPlan_draws (h.passes hseq)).streamWritten h.memory⟩

end Sys2Proof.Machine
end

section
/-! PROOFS. The obligations of the format converter, each from the lemmas above. -/

namespace Sys2Proof.Proofs

open Machine

/-- Settles O52: a ready CONVERT of each planar format. `StreamFormat.pixel` evaluates to the packed conversion of the
samples that the statement names. -/
theorem convertPlanarWritesPixels : Obligations.ConvertPlanarWritesPixels := by
  intro s p dst b luma one two converts
  have hdone (f : StreamFormat) (h : StreamReady f s dst) := h.writes (sequence := []) rfl
  exact ⟨hdone .i420, hdone .yv12, hdone .i422, hdone .i444, hdone .i400⟩

/-- Settles O53: the same for the semi-planar, the packed and the BGR888 formats. -/
theorem convertInterleavedWritesPixels : Obligations.ConvertInterleavedWritesPixels := by
  intro s p dst b luma pair packed triple converts
  have hdone (f : StreamFormat) (h : StreamReady f s dst) := h.writes (sequence := []) rfl
  exact ⟨hdone .nv12, hdone .nv21, hdone .yuy2, hdone .uyvy, hdone .bgr888⟩

end Sys2Proof.Proofs
end

section
/-! PROOFS. PRESENT and its completion (44_framebuffer.md R235–R242). -/

namespace Sys2Proof.Machine

variable {s : State}

/-- A failed check enters FAILED from every other phase (60_exceptions.md R274, R278). -/
theorem raiseFailure_of_ne (hx : s.phase ≠ .failed) (f : Failure) :
    raiseFailure f s = s.enterFailed f.code f.check f.plane 0 := raiseError_of_ne hx _ _ _ _

/-- R235: outside a bracket PRESENT is its request. -/
theorem exec_present_outside (hf : s.inFrame = false) : exec .present s = .next s.requestPresent := by
  simp [exec, execPresent, hf]

/-- R236: inside a bracket PRESENT fails check 6. -/
theorem exec_present_inside (hf : s.inFrame = true) : exec .present s = .next (raiseFailure bracketOpen s) := by
  simp [exec, execPresent, hf]

/-- R238: VSYNC_ACK is ignored while no PRESENT waits. -/
theorem perform_vsyncAck_of_ne (hx : s.phase ≠ .waitVsync) : perform .vsyncAck s = .next s := by
  rw [perform, vsyncAck, if_neg hx]

/-- The surface that a completed PRESENT makes active is the one that was inactive (R237). -/
theorem activeSurface_presented (s : State) : s.requestPresent.finishPresent.activeSurface = s.inactiveSurface := rfl

/-- In a ring of two, the index after the next one is the first again (10_state.md R46). -/
theorem inactiveIdx_presented_of_two (h : s.Inv) (hn : s.params.fbN = 2) :
    s.requestPresent.finishPresent.inactiveIdx = s.activeIdx := by
  have hcount : s.params.fbN.toNat = 2 := by rw [hn]; rfl
  have hactive := h.activeInRange
  have hnext := h.inactiveIdx_toNat
  have hafter : s.requestPresent.finishPresent.inactiveIdx =
      BitVec.ofNat 2 ((s.inactiveIdx.toNat + 1) % s.params.fbN.toNat) := rfl
  rw [hcount] at hactive hnext hafter
  apply BitVec.eq_of_toNat_eq
  rw [hafter, BitVec.toNat_ofNat]
  omega

/-- With two surfaces, a completed PRESENT makes the active surface the inactive one (R242). -/
theorem inactiveSurface_presented_of_two (h : s.Inv) (hn : s.params.fbN = 2) :
    s.requestPresent.finishPresent.inactiveSurface = s.activeSurface := by
  simp only [State.inactiveSurface, State.activeSurface, inactiveIdx_presented_of_two h hn,
    State.finishPresent_params, State.requestPresent_params]

end Sys2Proof.Machine
end

section
/-! PROOFS. The obligations of the framebuffer, each from the lemmas above. -/

namespace Sys2Proof.Proofs

open Machine

/-- Settles O58: the target in the statement is INACTIVE_IDX (10_state.md R46). -/
theorem presentRequest : Obligations.PresentRequest := by
  intro s target
  refine ⟨exec_present_outside, fun hf hx => ?_⟩
  rw [exec_present_inside hf, raiseFailure_of_ne (by simp [hx])]
  rfl

/-- Settles O59. -/
theorem vsyncAcknowledge : Obligations.VsyncAcknowledge := by
  intro s
  split
  case isTrue hx => exact perform_vsyncAck hx
  case isFalse hx => exact perform_vsyncAck_of_ne hx

/-- Settles O60: the acknowledged state is `s.requestPresent.finishPresent`, whose memory is that of `s`. -/
theorem presentSwapsSurfaces : Obligations.PresentSwapsSurfaces := by
  intro s h hf
  refine ⟨s.requestPresent, s.requestPresent.finishPresent, exec_present_outside hf,
    perform_vsyncAck s.requestPresent_phase, rfl, rfl, activeSurface_presented s, rfl, fun x y => ?_,
    inactiveSurface_presented_of_two h⟩
  rw [activeSurface_presented, State.finishPresent_mem, State.requestPresent_mem]

end Sys2Proof.Proofs
end

section
/-! PROOFS. The compositor's bracket and the DRAW commands (45_compositor.md R250–R265). -/

namespace Sys2Proof.Machine

variable {s : State}

/-- R250: outside a bracket BEGIN_FRAME opens one and completes. -/
theorem exec_beginFrame_outside (hf : s.inFrame = false) :
    exec .beginFrame s = .next (complete { s with inFrame := true }) := by
  simp [exec, execBeginFrame, hf]

/-- R250: inside a bracket BEGIN_FRAME fails check 6. -/
theorem exec_beginFrame_inside (hf : s.inFrame = true) :
    exec .beginFrame s = .next (raiseFailure bracketOpen s) := by
  simp [exec, execBeginFrame, hf]

/-- R265: inside a bracket END_FRAME closes it and completes. -/
theorem exec_endFrame_inside (hf : s.inFrame = true) :
    exec .endFrame s = .next (complete { s with inFrame := false }) := by
  simp [exec, execEndFrame, hf]

/-- R265: outside a bracket END_FRAME fails check 5. -/
theorem exec_endFrame_outside (hf : s.inFrame = false) :
    exec .endFrame s = .next (raiseFailure bracketMissing s) := by
  simp [exec, execEndFrame, hf]

/-- Inside a bracket DRAW's check 5 passes, so that a ready DRAW of any format is a ready stream command onto the inactive
surface (R251–R253). -/
theorem exec_drawCommand_writes {f : StreamFormat} (hf : s.inFrame = true) (h : StreamReady f s s.inactiveSurface) :
    ∃ m, exec f.drawCommand s = .next (s.doneWith m) ∧
      StreamWritten s s.inactiveSurface (f.pixel s.params s.mem) m := by
  rw [exec_drawCommand]
  exact h.writes (by simp [firstFailure, hf])

end Sys2Proof.Machine
end

section
/-! PROOFS. The obligations of the compositor, each from the lemmas above. -/

namespace Sys2Proof.Proofs

open Machine

/-- Settles O55: the pixel of an RGB565 source is the word at its address. -/
theorem drawRgb565CopiesPixels : Obligations.DrawRgb565CopiesPixels :=
  fun _ hf h => exec_drawCommand_writes (f := .rgb565) hf h

/-- Settles O56: the listed commands are the DRAW commands of their formats. -/
theorem drawConvertsPixels : Obligations.DrawConvertsPixels := by
  intro q s hq hf h
  obtain ⟨f, -, rfl⟩ := List.mem_map.1
    (show q ∈ streamFormats.dropLast.map fun f => (f.drawCommand, f) from hq)
  exact exec_drawCommand_writes hf h

/-- Settles O57: each command in each of the two bracket states. -/
theorem bracketCommands : Obligations.BracketCommands := by
  refine ⟨decode_encode .beginFrame, decode_encode .endFrame, fun s => ⟨exec_beginFrame_outside,
    exec_endFrame_inside, fun hf hx => ?_, fun hf hx => ?_⟩⟩
  · rw [exec_beginFrame_inside hf, raiseFailure_of_ne (by simp [hx])]
    rfl
  · rw [exec_endFrame_outside hf, raiseFailure_of_ne (by simp [hx])]
    rfl

end Sys2Proof.Proofs
end

section
/-! PROOFS. What an error finds and leaves: the operation it reports, the image command that a bus error stops, and the
PRESENT that DISP_ERR abandons (60_exceptions.md R274–R278, R286). -/

namespace Sys2Proof.Machine

variable {s : State}

/-- R274: an error reports the OP of the command in progress, and 0 where there is none. -/
theorem runningOp_eq (s : State) :
    s.runningOp = if s.phase = .exec ∨ s.phase = .waitVsync then BitVec.ofNat 8 s.curCmd.toNat else 0 := by
  split
  case isTrue hx => exact runningOp_of_busy ((busy_iff s).2 hx)
  case isFalse hx => exact runningOp_of_not_busy (Bool.eq_false_iff.2 fun hb => hx ((busy_iff s).1 hb))

/-! EnsureLUT, where the command begins with it, leaves what error entry and a bus error depend on. -/

theorem ensureLutIf_phase (b : Bool) (s : State) : (if b then ensureLut s else s).phase = s.phase := by
  cases b <;> simp

theorem ensureLutIf_curCmd (b : Bool) (s : State) : (if b then ensureLut s else s).curCmd = s.curCmd := by
  cases b <;> simp

theorem ensureLutIf_irqStatus (b : Bool) (s : State) : (if b then ensureLut s else s).irqStatus = s.irqStatus := by
  cases b <;> simp

theorem ensureLutIf_freeCount (b : Bool) (s : State) : (if b then ensureLut s else s).freeCount = s.freeCount := by
  cases b <;> simp

theorem ensureLutIf_busErrorOn (b : Bool) (s : State) (x : Access) :
    (if b then ensureLut s else s).busErrorOn x = s.busErrorOn x := by
  cases b <;> simp [State.busErrorOn, State.busErrorAt]

/-- R274, R275: error entry after a stop writes the error, whatever some of the stores left of memory. -/
theorem enterFailed_stopStores (hx : s.phase = .exec) (stores : List Store) (code : ErrCode) (check : Byte)
    (plane : BitVec 2) (addr : Word) :
    (s.stopStores stores).enterFailed code check plane addr = { s with
      mem := (s.stopStores stores).mem, freeCount := s.freeCount + 1, errCode := code, phase := .failed,
      errOp := BitVec.ofNat 8 s.curCmd.toNat, errCheck := check, errPlane := plane, errAddr := addr,
      dispReq := false, dispAddr := 0, irqStatus := s.irqStatus ||| irqError } := by
  have hop : (s.stopStores stores).runningOp = BitVec.ofNat 8 s.curCmd.toNat :=
    runningOp_of_busy ((busy_iff (s.stopStores stores)).2 (.inl hx))
  rw [State.enterFailed, hop]
  rfl

/-- R274–R276: a bus error that stops an image command finds the effects begun and some of the stores made. -/
theorem exec_of_busFault {i : Instr} {p : Plan} {a : Access} (hx : s.phase = .exec) (hp : commandPlan i s = some p)
    (hf : p.failure = none) (ho : p.overlaps = false) (ha : p.busFault s = some a) :
    exec i s = .next (((if p.usesLut then ensureLut s else s).stopStores p.stores).enterFailed .hardwareFault 16
      a.plane (BitVec.ofNat 32 a.addr)) := by
  have hrunning : ((if p.usesLut then ensureLut s else s).stopStores p.stores).phase ≠ .failed := by
    rw [State.stopStores_phase, ensureLutIf_phase, hx]
    decide
  rw [exec_of_plan hp, executePlan_bus hf ho ha, raiseError_of_ne hrunning]

/-- R286: in a cycle with VSYNC_ACK, DISP_ERR is performed first, and the acknowledge after it is ignored (log 16). -/
theorem step_dispErr_then_vsyncAck {rest : List (List Event)} (hx : s.phase = .waitVsync)
    (h : s.inputs = [.vsyncAck, .dispErr] :: rest ∨ s.inputs = [.dispErr, .vsyncAck] :: rest) :
    ∃ t, step s = .next t ∧
      step t = .next ({ s with inputs := rest }.enterFailed .hardwareFault 17 0 0) := by
  have hrank : Event.dispErr.rank s = 2 ∧ Event.vsyncAck.rank s = 4 := ⟨rfl, rfl⟩
  refine ⟨{ s with inputs := [.vsyncAck] :: rest }.enterFailed .hardwareFault 17 0 0, ?_, ?_⟩
  · rw [step_lower_first (by omega) (by omega) h]
    exact displayError_of_waiting (.inr hx)
  · rw [step_single (e := .vsyncAck) (rest := rest) rfl]
    exact perform_vsyncAck_of_ne (by simp)

end Sys2Proof.Machine
end

section
/-! PROOFS. The obligations of the exceptions, each from the lemmas above. -/

namespace Sys2Proof.Proofs

open Machine

/-- Settles O33: in FAILED, and outside it with the OP that the error finds. -/
theorem errorEntry : Obligations.ErrorEntry := by
  intro s code check plane addr
  split
  case isTrue hx => exact raiseError_of_failed hx code check plane addr
  case isFalse hx =>
    rw [raiseError_of_ne hx, State.enterFailed, runningOp_eq]
    rfl

/-- Settles O23: the state after the cycle is the one that DISP_ERR enters. -/
theorem displayErrorBeatsAcknowledge : Obligations.DisplayErrorBeatsAcknowledge := by
  intro s rest hx h
  obtain ⟨t, hfirst, hsecond⟩ := step_dispErr_then_vsyncAck hx h
  exact ⟨t, _, hfirst, hsecond, rfl, rfl, rfl, rfl, rfl, rfl⟩

/-- Settles O35: the bytes are those that the stop of the plan's stores leaves; the table is built before the accesses
and is no access. -/
theorem busErrorStopsCommand : Obligations.BusErrorStopsCommand := by
  intro s i p hm hx hp hf ho begun
  have hbegun : begun = if p.usesLut then ensureLut s else s := if_congr (commandPlan_usesLut hp).symm rfl rfl
  refine ⟨commandPlan_busFault hp, fun a ha => ?_⟩
  obtain ⟨haccess, herror⟩ := busFault_some ha
  obtain ⟨f, d, L, pos, bytes, hdraws⟩ := commandPlan_draws hp hf
  refine ⟨herror, mem_accesses.1 haccess, _, exec_of_busFault hx hp hf ho ha, ?_⟩
  have hmem := ensureLutIf_mem p.usesLut s
  have hphase := (ensureLutIf_phase p.usesLut s).trans hx
  rw [hbegun]
  refine ⟨?_, fun b hb => ?_, fun b => ?_, fun st hst hb k hk => ?_⟩
  · rw [State.enterFailed_mem, enterFailed_stopStores hphase, ensureLutIf_curCmd, ensureLutIf_irqStatus,
      ensureLutIf_freeCount]
    rfl
  · exact (hdraws.stop_outside _ hb).trans (by rw [hmem])
  · rw [← hmem] at hm ⊢
    exact hdraws.stop_read hm b
  · rw [← ensureLutIf_busErrorOn p.usesLut] at hb
    exact (hdraws.stop_failing _ hst hb hk).trans (by rw [hmem])

end Sys2Proof.Proofs
end

section
/-! PROOFS. A reset, hardware or soft, in each phase: what it leaves of the engine, of memory and of the display
(70_reset_and_hazards.md R300–R303). -/

namespace Sys2Proof.Machine

variable {s t : State} {p : Plan}

/-- U11: the one phase in which a reset may leave SCAN_BASE at another address (log 17). -/
theorem resetMachine_of_waiting (hx : s.phase = .waitVsync) :
    resetMachine s = .next { s.resetEngine with
      scanBase := if Config.switchedAtReset s.freeCount then s.dispAddr else s.scanBase
      freeCount := s.freeCount + 1 } := by
  simp [resetMachine, hx]

/-- R302: in every other phase the engine is reset once the command in progress, if there is one, has stopped. -/
theorem resetMachine_of_ne (hx : s.phase ≠ .waitVsync) :
    resetMachine s = afterStop (stopCommand s) State.resetEngine := by
  unfold resetMachine
  split
  · exact absurd ‹_› hx
  all_goals rfl

theorem resetMachine_of_stop (hx : s.phase ≠ .waitVsync) (h : stopCommand s = .next t) :
    resetMachine s = .next t.resetEngine := by
  rw [resetMachine_of_ne hx, h, afterStop]

/-- R94: the stores of a command whose planes overlap are not defined, so neither is their stop (log 14). -/
theorem resetMachine_of_overlap (h : s.runningPlan = some p) (ho : p.overlaps = true) :
    resetMachine s = .refused .sourceDestinationOverlap := by
  have hx := (runningPlan_iff.1 h).1
  rw [resetMachine_of_ne (by simp [hx])]
  simp [stopCommand, h, ho, afterStop]

/-- After the reset, a stopped command shows in memory and in the model's counter only. -/
theorem resetEngine_of_stop (h : stopCommand s = .next t) :
    t.resetEngine = { s.resetEngine with mem := t.mem, freeCount := t.freeCount } := by
  rcases stopCommand_next h with rfl | ⟨p, -, -, rfl⟩
  · rfl
  · rw [State.stopPlan_eq]
    rfl

/-- R300, R303: the engine has its reset values; what is not the engine's stays, but for memory and SCAN_BASE. -/
theorem resetMachine_eq (h : resetMachine s = .next t) :
    t = { s.resetEngine with mem := t.mem, scanBase := t.scanBase, freeCount := t.freeCount } := by
  rcases resetMachine_next h with ⟨-, rfl⟩ | ⟨-, u, hu, rfl⟩
  · rfl
  · rw [resetEngine_of_stop hu]

/-- R302: no command is in progress outside EXEC, so none is stopped. -/
theorem resetMachine_mem (hx : s.phase ≠ .exec) (h : resetMachine s = .next t) : t.mem = s.mem := by
  rcases resetMachine_next h with ⟨-, rfl⟩ | ⟨-, u, hu, rfl⟩
  · rfl
  · obtain rfl := Host.Outcome.next.inj ((stopCommand_of_ne hx).symm.trans hu)
    rfl

theorem resetMachine_scanBase_of_ne (hx : s.phase ≠ .waitVsync) (h : resetMachine s = .next t) :
    t.scanBase = s.scanBase := by
  rcases resetMachine_next h with ⟨hw, -⟩ | ⟨-, u, hu, rfl⟩
  · exact absurd hw hx
  · rw [resetEngine_of_stop hu, State.resetEngine_scanBase]

/-- U11: the display has switched to the requested address, or it has not. -/
theorem resetMachine_scanBase (h : resetMachine s = .next t) : t.scanBase = s.scanBase ∨ t.scanBase = s.dispAddr := by
  by_cases hx : s.phase = .waitVsync
  · obtain rfl := Host.Outcome.next.inj ((resetMachine_of_waiting hx).symm.trans h)
    exact (ite_eq_or_eq _ s.dispAddr s.scanBase).symm
  · exact .inl (resetMachine_scanBase_of_ne hx h)

/-- R302: outside EXEC there is no stop that could be refused. -/
theorem resetMachine_completes (hx : s.phase ≠ .exec) : ∃ u, resetMachine s = .next u := by
  by_cases hw : s.phase = .waitVsync
  · exact ⟨_, resetMachine_of_waiting hw⟩
  · exact ⟨_, resetMachine_of_stop hw (stopCommand_of_ne hx)⟩

/-- R25, R301: CTRL.SOFT_RESET is bit 0, and a store of 1 to it is a reset in every phase. -/
theorem writeOffset_ctrl_of_odd {v : Word} (hv : v.toNat % 2 = 1) (s : State) :
    writeOffset 0x000 v s = resetMachine s :=
  if_pos (show v.getLsbD 0 = true by simpa [BitVec.getLsbD] using hv)

/-- A command that does not pass its checks, or has no plan, has nothing to stop. -/
theorem runningPlan_eq_none
    (h : ∀ i p, decode s.curCmd = .ok i → commandPlan i s = some p → p.failure ≠ none) : s.runningPlan = none :=
  Option.eq_none_iff_forall_ne_some.2 fun p hp => by
    obtain ⟨-, hf, i, hi, hp⟩ := runningPlan_iff.1 hp
    exact h i p hi hp hf

end Sys2Proof.Machine
end

section
/-! PROOFS. The obligations of the reset, each from the lemmas above. -/

namespace Sys2Proof.Proofs

open Machine

/-- Settles O15: the reset finds what the stopped command leaves of memory. -/
theorem resetDuringExecOldOrNew : Obligations.ResetDuringExecOldOrNew := by
  intro s hx
  have hne : s.phase ≠ .waitVsync := by simp [hx]
  refine ⟨fun hnone => ?_, fun i p hi hp hf => ⟨fun ho => ?_, fun ho hm => ?_⟩⟩
  · exact ⟨_, resetMachine_of_stop hne (stopCommand_of_none (runningPlan_eq_none hnone)), rfl, rfl⟩
  · exact resetMachine_of_overlap (runningPlan_eq hx hi hp hf) ho
  · obtain ⟨f, d, L, pos, bytes, hdraws⟩ := commandPlan_draws hp hf
    exact ⟨(s.stopPlan p).resetEngine,
      resetMachine_of_stop hne (stopCommand_of_plan (runningPlan_eq hx hi hp hf) ho), rfl,
      fun a => hdraws.stopPlan_outside s, hdraws.stopPlan_read hm⟩

/-- Settles O14: the soft reset and the hardware reset are one transition. -/
theorem resetRestoresEngine : Obligations.ResetRestoresEngine := by
  refine fun s => ⟨fun u hu => ⟨?_, fun hx => resetMachine_mem hx hu,
    fun hx => resetMachine_scanBase_of_ne hx hu, resetMachine_scanBase hu⟩,
    resetMachine_completes, fun v hv => writeOffset_ctrl_of_odd hv s⟩
  rw [resetMachine_eq hu]
  rfl

end Sys2Proof.Proofs
end
